-- ==== Sys2Proof/Word.lean ====
section
/-! DEFINITION. The word types of HAOS (00_scope.md R5, R7): what the spec treats as bits. -/

namespace Sys2Proof

/-- An 8-bit unsigned sample, a bin index, or THRESH (00_scope.md R5, SAMPLE_WIDTH). -/
abbrev Byte := BitVec 8

/-- A 32-bit bus word, a bin, or N (00_scope.md R5, DATA_WIDTH and COUNT_WIDTH). -/
abbrev Word := BitVec 32

/-- A transaction word T (30_encoding.md R70). -/
abbrev TWord := BitVec 46

/-- A byte offset in the 2048-byte window (20_memory.md R52, OFF_WIDTH of 00_scope.md R5). -/
abbrev Offset := BitVec 11

/-- The 64-bit encoding of an IEEE 754 binary64 number (00_scope.md R11, `f64_bits`). -/
abbrev F64 := BitVec 64

end Sys2Proof
end

