-- ==== Sys2Proof/Config.lean ====
section
/-! DEFINITION. The parameters of 00_scope.md R5: the fixed constants, and the OPEN ones as opaque
constants with no body, so that nothing can be proved of their values. -/

namespace Sys2Proof.Config

/-- COUNT_MAX, the largest value of N (00_scope.md R5). -/
def countMax : Nat := 0xFFFFFFFF

/-- The size in bytes of the address window (00_scope.md R5, OFF_WIDTH; 20_memory.md R52). -/
def windowSize : Nat := 2048

/-- OPEN: which 2048-byte page of the platform's address space holds the window. -/
opaque basePage : Nat

/-- BASE, the platform address of offset 0: OPEN, a multiple of 2048 (20_memory.md R53). Entry 4. -/
def base : Nat := windowSize * basePage

/-- OPEN: one less than the LATENCY in cycles of the transaction with this index. -/
opaque latencyPred : Nat → Nat

/-- LATENCY in cycles, from acceptance to response, of the transaction with index `k`: OPEN, finite
and at least 1 (00_scope.md R5, 70_reset_and_hazards.md R200). No rule, and nothing in the machine,
depends on it. Entry 5. -/
def latency (k : Nat) : Nat := latencyPred k + 1

/-- A free value: the sign (bit 51) and the payload (bits 50..0) of the NaN that an invalid binary64
operation on these operands answers, which IEEE 754 leaves open. SOLVE never reaches it (41_otsu.md
R132). Entry 6. -/
opaque nanBits : F64 → F64 → BitVec 52

end Sys2Proof.Config
end

