-- ==== Sys2Proof/Machine/State.lean ====
section
/-! DEFINITION. The state of HAOS (10_state.md R20), of its bus port and of the host's coming port
events, and the state after reset (10_state.md R34). Plain data. -/

namespace Sys2Proof.Machine

/-- The fields of STATUS (10_state.md R26). The reserved bits hold no state. -/
structure Status where
  /-- THRESH and VARMAX describe the current histogram (10_state.md R27). -/
  VALID : Bool
  /-- The last successful solve found no candidate (10_state.md R28). -/
  DEGEN : Bool
  EMPTY_ERR : Bool
  OVF_ERR : Bool
  RANGE_ERR : Bool
  CMD_ERR : Bool
  ACC_ERR : Bool
  /-- The code of the first error since the five sticky bits were last all zero (10_state.md R30). -/
  CAUSE : BitVec 4
deriving DecidableEq, Repr

/-- What can happen at the port (20_memory.md R51, 70_reset_and_hazards.md R190, R192). Entries 1, 3. -/
inductive PortEvent where
  /-- The host's request `t` is accepted and performed. -/
  | request (t : TWord)
  /-- A cycle with `rst = 1` and no request outstanding. -/
  | reset
  /-- `rst = 1` while the accepted request `t` has had no response yet. -/
  | resetDuring (t : TWord)
deriving DecidableEq, Repr

/-- The state. `H` to `STATUS` are HAOS's own, and all of it (10_state.md R20). The rest is the port
and the host outside. -/
structure State where
  /-- The bin file (10_state.md R21). -/
  H : Vector Word 256
  /-- The sample count (10_state.md R22). -/
  N : Word
  /-- The solver's threshold (10_state.md R24). -/
  THRESH : Byte
  /-- The encoding of the solver's maximal variance (10_state.md R25). -/
  VARMAX : F64
  STATUS : Status
  /-- The response after this step: `none` is `rsp_valid = 0`, `some d` is `rsp_valid = 1` with
  `rsp_rdata = d` (20_memory.md R50, R51). -/
  response : Option Word
  /-- The index of the next host transaction, this hardware's `pc` (00_scope.md R12). Entry 2. -/
  txIndex : Nat
  /-- The coming port events, the next one first. Entry 1. -/
  pending : List PortEvent
deriving DecidableEq, Repr

/-- STATUS after reset, 0x00000000 (10_state.md R34). -/
def Status.reset : Status where
  VALID := false
  DEGEN := false
  EMPTY_ERR := false
  OVF_ERR := false
  RANGE_ERR := false
  CMD_ERR := false
  ACC_ERR := false
  CAUSE := 0

/-- The state right after reset (10_state.md R34, 70_reset_and_hazards.md R190): every register of HAOS
is 0 as the spec says. No response is present (20_memory.md R51), no event is pending (entry 1), and
the host is at the start of its transaction sequence (entry 2). -/
def State.reset : State where
  H := Vector.replicate 256 0
  N := 0
  THRESH := 0
  VARMAX := 0
  STATUS := Status.reset
  response := none
  txIndex := 0
  pending := []

/-- Why the machine stops with a fault. There is no constructor, so nobody raises one: HAOS never
halts, hangs or refuses the bus because of an error (60_exceptions.md R171). Entry 8. -/
inductive Fault : Type
deriving DecidableEq, Repr

/-- Why an instruction has no meaning in this model. -/
inductive Refusal where
  /-- Raised by an arm of `exec` whose instruction has no meaning yet: safe. No arm raises it. -/
  | notModelled (mnemonic : String)
deriving DecidableEq, Repr

/-- What a meaning answers. -/
abbrev Result := Host.Outcome State Fault Refusal

end Sys2Proof.Machine
end

