-- ==== Sys2Proof/Machine/Flags.lean ====
section
/-! DEFINITION. The STATUS register: the error classes (60_exceptions.md R170), recording an error
(R172), acknowledging errors (42_control.md R154), the status word (R153), VALID and DEGEN
(10_state.md R27, R28). -/

namespace Sys2Proof.Machine

/-- The five error classes (60_exceptions.md R170). -/
inductive ErrorClass where
  | empty
  | ovf
  | range
  | cmd
  | acc
deriving DecidableEq, Repr

/-- The cause code of an error class (60_exceptions.md R170). -/
def errorCode : ErrorClass → BitVec 4
  | .empty => 1
  | .ovf => 2
  | .range => 3
  | .cmd => 4
  | .acc => 5

/-- The sticky bit of an error class (60_exceptions.md R170). -/
def stickyBit : ErrorClass → Status → Bool
  | .empty, st => st.EMPTY_ERR
  | .ovf, st => st.OVF_ERR
  | .range, st => st.RANGE_ERR
  | .cmd, st => st.CMD_ERR
  | .acc, st => st.ACC_ERR

/-- `STATUS[code + 1] <- 1` (60_exceptions.md R172). -/
def setSticky : ErrorClass → Status → Status
  | .empty, st => { st with EMPTY_ERR := true }
  | .ovf, st => { st with OVF_ERR := true }
  | .range, st => { st with RANGE_ERR := true }
  | .cmd, st => { st with CMD_ERR := true }
  | .acc, st => { st with ACC_ERR := true }

/-- `STATUS[6:2]` is not 0. -/
def anySticky (st : Status) : Bool :=
  st.EMPTY_ERR || st.OVF_ERR || st.RANGE_ERR || st.CMD_ERR || st.ACC_ERR

/-- `RecordError(code)` (60_exceptions.md R172). -/
def recordError (e : ErrorClass) (st : Status) : Status :=
  let set := setSticky e st
  { set with CAUSE := if st.CAUSE = 0 then errorCode e else st.CAUSE }

/-- `ClearSticky(m)` (42_control.md R154). Bits 0, 1, 7 and 31:8 of `m` are ignored. -/
def clearSticky (m : Word) (st : Status) : Status :=
  let kept : Status :=
    { st with
      EMPTY_ERR := st.EMPTY_ERR && !m.getLsbD 2
      OVF_ERR := st.OVF_ERR && !m.getLsbD 3
      RANGE_ERR := st.RANGE_ERR && !m.getLsbD 4
      CMD_ERR := st.CMD_ERR && !m.getLsbD 5
      ACC_ERR := st.ACC_ERR && !m.getLsbD 6 }
  { kept with CAUSE := if anySticky kept then st.CAUSE else 0 }

/-- VALID and DEGEN cleared together (10_state.md R27, R28). -/
def staleResult (st : Status) : Status := { st with VALID := false, DEGEN := false }

/-- VALID set by a successful solve, and DEGEN as it found (41_otsu.md R129, R130). -/
def currentResult (degen : Bool) (st : Status) : Status := { st with VALID := true, DEGEN := degen }

/-- `StatusWord()` (42_control.md R153): bits 31:12 and bit 7 are 0. -/
def statusWord (st : Status) : Word :=
  (0#20 ++ st.CAUSE ++ 0#1 ++ BitVec.ofBool st.ACC_ERR ++ BitVec.ofBool st.CMD_ERR
    ++ BitVec.ofBool st.RANGE_ERR ++ BitVec.ofBool st.OVF_ERR ++ BitVec.ofBool st.EMPTY_ERR
    ++ BitVec.ofBool st.DEGEN ++ BitVec.ofBool st.VALID :
    BitVec (20 + 4 + 1 + 1 + 1 + 1 + 1 + 1 + 1 + 1))

end Sys2Proof.Machine
end

