-- ==== Sys2Proof/Syntax.lean ====
section
/-! DEFINITION. The operations of HAOS: one constructor per row of 30_encoding.md R78, in its order. -/

namespace Sys2Proof

/-- An access as ACC.BAD saw it (42_control.md R156). A read has no data: its DATA is ignored by
decode and by every rule (30_encoding.md R70). -/
inductive BadAccess where
  | read (sz : BitVec 2) (off : Offset)
  | write (sz : BitVec 2) (off : Offset) (data : Word)
deriving DecidableEq, Repr

/-- One bus transaction, decoded (30_encoding.md R78). -/
inductive Instr where
  /-- NOP, row 1 (42_control.md R150). -/
  | nop
  /-- CLEAR, row 2 (40_histogram.md R100). -/
  | clear
  /-- SOLVE, row 3 (41_otsu.md R120). -/
  | solve
  /-- CMD.BAD, row 4: a reserved command word `{RSV, OP}` (42_control.md R151, 30_encoding.md R72). -/
  | cmdBad (rsv : BitVec 24) (op : Byte)
  /-- RD.STATUS, row 5 (42_control.md R152). -/
  | rdStatus
  /-- WR.STATUS, row 6, with its acknowledge mask (42_control.md R155). -/
  | wrStatus (m : Word)
  /-- TALLY1, row 7, with its sample (40_histogram.md R102). -/
  | tally1 (x : Byte)
  /-- TALLY1.BAD, row 8, with the out-of-range value (40_histogram.md R103). -/
  | tally1Bad (data : Word)
  /-- TALLY4, row 9, with the samples of lanes 0 to 3 (40_histogram.md R104). -/
  | tally4 (x0 x1 x2 x3 : Byte)
  /-- RD.COUNT, row 10 (40_histogram.md R105). -/
  | rdCount
  /-- RD.THRESH, row 11 (41_otsu.md R137). -/
  | rdThresh
  /-- RD.VARLO, row 12 (41_otsu.md R138). -/
  | rdVarlo
  /-- RD.VARHI, row 13 (41_otsu.md R139). -/
  | rdVarhi
  /-- RD.BIN, row 14, with its bin index (40_histogram.md R106). -/
  | rdBin (v : Byte)
  /-- ACC.BAD, row 15 (42_control.md R156). -/
  | accBad (a : BadAccess)
deriving DecidableEq, Repr

end Sys2Proof
end

