-- ==== Sys2Proof/WellFormed.lean ====
section
/-! DEFINITION. Which instructions stand for a transaction: the operand conditions of 30_encoding.md
R73 and R74 and of 42_control.md R156, written from those rules and not from the opcode table. -/

namespace Sys2Proof

/-- The word `{RSV, OP}` is a reserved command word: RSV is not 0, or OP is 0x03 or more (30_encoding.md
R72, R73). -/
def reservedCommand (rsv : BitVec 24) (op : Byte) : Bool :=
  rsv != 0 || 0x03 ≤ op.toNat

/-- A sample value above 255 (30_encoding.md R74). -/
def outOfRange (data : Word) : Bool := 255 < data.toNat

/-- Offset 0x020 to 0x3FF, the reserved range (20_memory.md R52). -/
def reservedOffset (off : Offset) : Bool := 0x020 ≤ off.toNat && off.toNat ≤ 0x3FF

/-- `OFF[1:0]` is not 0 (20_memory.md R55). -/
def misaligned (off : Offset) : Bool := off.toNat % 4 != 0

/-- The offsets of the write-only ports CMD, SAMPLE1 and SAMPLE4 (20_memory.md R52). -/
def writeOnly (off : Offset) : Bool := off = 0x000#11 || off = 0x008#11 || off = 0x00C#11

/-- The offsets of the read-only registers COUNT, THRESH, VARMAX_LO, VARMAX_HI and BIN[v]
(20_memory.md R52). -/
def readOnly (off : Offset) : Bool :=
  off = 0x010#11 || off = 0x014#11 || off = 0x018#11 || off = 0x01C#11 || 0x400 ≤ off.toNat

/-- The accesses that are ACC.BAD, as 42_control.md R156 lists them. -/
def BadAccess.unsupported : BadAccess → Bool
  | .read sz off => sz != 2 || misaligned off || reservedOffset off || writeOnly off
  | .write sz off _ => sz != 2 || misaligned off || reservedOffset off || readOnly off

/-- The operands are ones that the encoding of the instruction's row admits. -/
def Instr.wellFormed : Instr → Bool
  | .nop => true
  | .clear => true
  | .solve => true
  | .cmdBad rsv op => reservedCommand rsv op
  | .rdStatus => true
  | .wrStatus _ => true
  | .tally1 _ => true
  | .tally1Bad data => outOfRange data
  | .tally4 _ _ _ _ => true
  | .rdCount => true
  | .rdThresh => true
  | .rdVarlo => true
  | .rdVarhi => true
  | .rdBin _ => true
  | .accBad a => a.unsupported

end Sys2Proof
end

