-- ==== Sys2Proof/Decode.lean ====
section
/-! DEFINITION. The transaction word (30_encoding.md R70), its decoder (R71 over the table of R78), and
the encoder written from the same table. -/

namespace Sys2Proof

/-! ### The fields of T (30_encoding.md R70) -/

/-- `T = {W, SZ, OFF, DATA}`. -/
def mkT (w : Bool) (sz : BitVec 2) (off : Offset) (data : Word) : TWord :=
  (BitVec.ofBool w ++ sz ++ off ++ data : BitVec (1 + 2 + 11 + 32))

/-- W, bit 45: `req_we`. -/
def isWrite (t : TWord) : Bool := t.getLsbD 45

/-- SZ, bits 44:43: `req_size`. -/
def sizeField (t : TWord) : BitVec 2 := t.extractLsb' 43 2

/-- OFF, bits 42:32: `req_off`. -/
def offField (t : TWord) : Offset := t.extractLsb' 32 11

/-- DATA, bits 31:0: `req_wdata`. -/
def dataField (t : TWord) : Word := t.extractLsb' 0 32

/-! ### The decoder -/

/-- One row of 30_encoding.md R78: a word matches when `T AND mask = bits`, and `operands` reads the
row's operand fields out of a word that matches. -/
structure Row where
  bits : TWord
  mask : TWord
  operands : TWord → Instr

/-- The operand fields of CMD.BAD: RSV is DATA[31:8] and OP is DATA[7:0] (30_encoding.md R72). -/
def readCommand (t : TWord) : Instr :=
  .cmdBad ((dataField t).extractLsb' 8 24) ((dataField t).extractLsb' 0 8)

/-- The four samples of SAMPLE4, lane 0 lowest (30_encoding.md R75). -/
def readLanes (t : TWord) : Instr :=
  .tally4 ((dataField t).extractLsb' 0 8) ((dataField t).extractLsb' 8 8)
    ((dataField t).extractLsb' 16 8) ((dataField t).extractLsb' 24 8)

/-- The access that ACC.BAD records nothing of but its being refused (42_control.md R156). -/
def readAccess (t : TWord) : Instr :=
  .accBad (if isWrite t then .write (sizeField t) (offField t) (dataField t)
    else .read (sizeField t) (offField t))

/-- The opcode table, in decode order (30_encoding.md R78). -/
def opcodeTable : List Row :=
  [ ⟨0x300000000000, 0x3FFFFFFFFFFF, fun _ => .nop⟩,
    ⟨0x300000000001, 0x3FFFFFFFFFFF, fun _ => .clear⟩,
    ⟨0x300000000002, 0x3FFFFFFFFFFF, fun _ => .solve⟩,
    ⟨0x300000000000, 0x3FFF00000000, readCommand⟩,
    ⟨0x100400000000, 0x3FFF00000000, fun _ => .rdStatus⟩,
    ⟨0x300400000000, 0x3FFF00000000, fun t => .wrStatus (dataField t)⟩,
    ⟨0x300800000000, 0x3FFFFFFFFF00, fun t => .tally1 ((dataField t).extractLsb' 0 8)⟩,
    ⟨0x300800000000, 0x3FFF00000000, fun t => .tally1Bad (dataField t)⟩,
    ⟨0x300C00000000, 0x3FFF00000000, readLanes⟩,
    ⟨0x101000000000, 0x3FFF00000000, fun _ => .rdCount⟩,
    ⟨0x101400000000, 0x3FFF00000000, fun _ => .rdThresh⟩,
    ⟨0x101800000000, 0x3FFF00000000, fun _ => .rdVarlo⟩,
    ⟨0x101C00000000, 0x3FFF00000000, fun _ => .rdVarhi⟩,
    ⟨0x140000000000, 0x3C0300000000, fun t => .rdBin ((offField t).extractLsb' 2 8)⟩,
    ⟨0x000000000000, 0x000000000000, readAccess⟩ ]

/-- The first matching row names the operation (30_encoding.md R71). The last row of the table
matches every word, so the empty case is not reached from `opcodeTable`; it answers that row. -/
def firstMatch : List Row → TWord → Instr
  | [], t => readAccess t
  | row :: rows, t => if t &&& row.mask = row.bits then row.operands t else firstMatch rows t

/-- The operation that a transaction word stands for: total (30_encoding.md R71). -/
def decode (t : TWord) : Instr := firstMatch opcodeTable t

/-- Why a number is no transaction. -/
inductive DecodeError where
  /-- It has a bit above bit 45, and a T word has 46 bits (30_encoding.md R70). Entry 9. -/
  | notATransactionWord
deriving DecidableEq, Repr

/-- The decoder on any number, bit 0 of it being bit 0 of T. -/
def decodeBits (w : Nat) : Except DecodeError Instr :=
  if w < 2 ^ 46 then .ok (decode (BitVec.ofNat 46 w)) else .error .notATransactionWord

/-- The instruction read from the low `nbits` bits of `w`, every bit above them being 0. -/
def decodeTableWord (nbits w : Nat) : Option Instr :=
  match decodeBits (w % 2 ^ nbits) with
  | .ok i => some i
  | .error _ => none

/-! ### The encoder -/

/-- A write of a 32-bit word. -/
def writeT (off : Offset) (data : Word) : TWord := mkT true 2 off data

/-- A read of a 32-bit word. Its DATA is ignored, and 0 here (30_encoding.md R70). -/
def readT (off : Offset) : TWord := mkT false 2 off 0

/-- The offset of BIN[v], `0x400 + 4·v` (30_encoding.md R76). -/
def binOffset (v : Byte) : Offset := (1#1 ++ v ++ 0#2 : BitVec (1 + 8 + 2))

/-- The transaction word of a well-formed instruction (30_encoding.md R78, R82). -/
def encode : Instr → TWord
  | .nop => writeT 0x000 0
  | .clear => writeT 0x000 1
  | .solve => writeT 0x000 2
  | .cmdBad rsv op => writeT 0x000 (rsv ++ op : BitVec (24 + 8))
  | .rdStatus => readT 0x004
  | .wrStatus m => writeT 0x004 m
  | .tally1 x => writeT 0x008 (x.setWidth 32)
  | .tally1Bad data => writeT 0x008 data
  | .tally4 x0 x1 x2 x3 => writeT 0x00C (x3 ++ x2 ++ x1 ++ x0 : BitVec (8 + 8 + 8 + 8))
  | .rdCount => readT 0x010
  | .rdThresh => readT 0x014
  | .rdVarlo => readT 0x018
  | .rdVarhi => readT 0x01C
  | .rdBin v => readT (binOffset v)
  | .accBad (.read sz off) => mkT false sz off 0
  | .accBad (.write sz off data) => mkT true sz off data

end Sys2Proof
end

