-- ==== Sys2Proof/Machine/Operands.lean ====
section
/-! DEFINITION. The operand forms: a bin by its index, the read values of THRESH and VARMAX, and the
host's accesses by platform address (00_scope.md R9, 20_memory.md R53). -/

namespace Sys2Proof.Machine

/-- `H[v]` (10_state.md R21). -/
def bin (s : State) (v : Byte) : Word := s.H[v.toNat]'v.isLt

/-- `H[v] <- x` (00_scope.md R8). -/
def setBin (v : Byte) (x : Word) (s : State) : State := { s with H := s.H.set v.toNat x v.isLt }

/-- `zext_32(THRESH)` (10_state.md R24): bits 31:8 read as zero. -/
def threshWord (s : State) : Word := s.THRESH.setWidth 32

/-- VARMAX_LO, `VARMAX[31:0]` (20_memory.md R58). -/
def varmaxLo (s : State) : Word := s.VARMAX.extractLsb' 0 32

/-- VARMAX_HI, `VARMAX[63:32]` (20_memory.md R58). -/
def varmaxHi (s : State) : Word := s.VARMAX.extractLsb' 32 32

/-! ### The host's accesses by address -/

/-- The access sizes on the bus, 1, 2, 4 and 8 bytes (00_scope.md R9). -/
inductive AccessSize where
  | byte
  | half
  | word
  | double
deriving DecidableEq, Repr

/-- `req_size`, log2 of the size in bytes (20_memory.md R50). -/
def sizeCode : AccessSize → BitVec 2
  | .byte => 0
  | .half => 1
  | .word => 2
  | .double => 3

/-- The offset of a platform address in the window, `OFF = address - BASE` for an address in
[BASE, BASE + 2047]. The platform forwards no other access to HAOS (20_memory.md R53). Entry 4. -/
def windowOffset (address : Nat) : Option Offset :=
  if Config.base ≤ address ∧ address ≤ Config.base + 2047 then
    some (BitVec.ofNat 11 (address - Config.base))
  else none

/-- The transaction of `MemRead(address, n)` (00_scope.md R9). -/
def hostRead (address : Nat) (n : AccessSize) : Option TWord :=
  (windowOffset address).map fun off => mkT false (sizeCode n) off 0

/-- The transaction of `MemWrite(address, n, v)` (00_scope.md R9). -/
def hostWrite (address : Nat) (n : AccessSize) (v : Word) : Option TWord :=
  (windowOffset address).map fun off => mkT true (sizeCode n) off v

end Sys2Proof.Machine
end

