-- ==== Sys2Proof/Machine/Ops.lean ====
section
/-! DEFINITION. The operations that the instructions share: completing a transaction, taking an error
and acknowledging errors, tallying, and reset. -/

namespace Sys2Proof.Machine

/-! ### Completion -/

/-- The transaction completes: its response carries `rdata` (20_memory.md R51), and the transaction
index advances by one (00_scope.md R12). -/
def complete (rdata : Word) (s : State) : Result :=
  .next { s with response := some rdata, txIndex := s.txIndex + 1 }

/-! ### Errors (60_exceptions.md) -/

/-- `raise <Error>()`: this hardware's whole taking of an exception (00_scope.md R10, 60_exceptions.md
R172, R176). No state is saved, no vector is taken, and no control is transferred. -/
def raiseError (e : ErrorClass) (s : State) : State := { s with STATUS := recordError e s.STATUS }

/-- The acknowledgement of errors, what this hardware has in place of a return from an exception
(60_exceptions.md R177, 42_control.md R154). -/
def acknowledge (m : Word) (s : State) : State := { s with STATUS := clearSticky m s.STATUS }

/-! ### Tallying (40_histogram.md) -/

/-- The result no longer describes the histogram: VALID and DEGEN are cleared (10_state.md R27). -/
def invalidate (s : State) : State := { s with STATUS := staleResult s.STATUS }

/-- `Tally(x)` (40_histogram.md R101). -/
def tally (x : Byte) (s : State) : State :=
  let s := setBin x (bin s x + 1) s
  { s with N := s.N + 1 }

/-- `Tally` of each sample in turn. -/
def tallyAll : List Byte → State → State
  | [], s => s
  | x :: xs, s => tallyAll xs (tally x s)

/-- A tally write of `k` samples is refused: `N + k > COUNT_MAX`, without wrap-around (40_histogram.md
R107). -/
def countGuard (k : Nat) (s : State) : Bool := Config.countMax < s.N.toNat + k

/-- A tally write: all of its samples, or none and OVF_ERR (40_histogram.md R102, R104, R107). -/
def tallyWrite (xs : List Byte) (s : State) : State :=
  if countGuard xs.length s then raiseError .ovf s else invalidate (tallyAll xs s)

/-- What CLEAR zeroes (40_histogram.md R100). Errors stay. -/
def clearAll (s : State) : State :=
  { s with
    H := Vector.replicate 256 0
    N := 0
    THRESH := 0
    VARMAX := 0
    STATUS := staleResult s.STATUS }

/-! ### Port events -/

/-- A cycle with `rst = 1` (70_reset_and_hazards.md R190): every piece of HAOS's state takes its reset
value and no response is given. The host's coming events and its place in its own sequence are not
HAOS's state and stay (entry 2). -/
def resetEvent (s : State) : State :=
  { State.reset with txIndex := s.txIndex, pending := s.pending }

/-- `rst = 1` while a request is outstanding (70_reset_and_hazards.md R192): as a reset, whether or not
the operation had taken effect. The host has issued the request, so its index has moved on (entry 3). -/
def resetOutstanding (s : State) : State :=
  { State.reset with txIndex := s.txIndex + 1, pending := s.pending }

/-- A cycle without an event: the state is retained (60_exceptions.md R185), and the response of the
last transaction, a single cycle, is over (20_memory.md R51). Entry 1. -/
def idle (s : State) : State := { s with response := none }

/-- The pending events from here on. -/
def withPending (es : List PortEvent) (s : State) : State := { s with pending := es }

/-- The request that carries the low `nbits` bits of `w`, placed before all pending events. -/
def placeRequest (nbits w : Nat) (s : State) : State :=
  withPending (.request (BitVec.ofNat 46 (w % 2 ^ nbits)) :: s.pending) s

end Sys2Proof.Machine
end

