-- ==== Sys2Proof/Machine/Control.lean ====
section
/-! DEFINITION. The meanings of 42_control.md: NOP, CMD.BAD, RD.STATUS, WR.STATUS, ACC.BAD. -/

namespace Sys2Proof.Machine

/-- NOP (42_control.md R150): only the transaction index advances. -/
def execNop (s : State) : Result := complete 0 s

/-- CMD.BAD (42_control.md R151). -/
def execCmdBad (_rsv : BitVec 24) (_op : Byte) (s : State) : Result :=
  complete 0 (raiseError .cmd s)

/-- RD.STATUS (42_control.md R152). -/
def execRdStatus (s : State) : Result := complete (statusWord s.STATUS) s

/-- WR.STATUS (42_control.md R155). -/
def execWrStatus (m : Word) (s : State) : Result := complete 0 (acknowledge m s)

/-- ACC.BAD (42_control.md R156): a read returns 0, and a write's data is discarded. -/
def execAccBad (_a : BadAccess) (s : State) : Result := complete 0 (raiseError .acc s)

end Sys2Proof.Machine
end

