-- ==== Sys2Proof/Machine/Histogram.lean ====
section
/-! DEFINITION. The meanings of 40_histogram.md: CLEAR, TALLY1, TALLY1.BAD, TALLY4, RD.COUNT, RD.BIN.
A write's response carries 0 (20_memory.md R56). -/

namespace Sys2Proof.Machine

/-- CLEAR (40_histogram.md R100). -/
def execClear (s : State) : Result := complete 0 (clearAll s)

/-- TALLY1 (40_histogram.md R102). -/
def execTally1 (x : Byte) (s : State) : Result := complete 0 (tallyWrite [x] s)

/-- TALLY1.BAD (40_histogram.md R103): the value is never truncated, and the count guard is not
evaluated. -/
def execTally1Bad (_data : Word) (s : State) : Result := complete 0 (raiseError .range s)

/-- TALLY4 (40_histogram.md R104). -/
def execTally4 (x0 x1 x2 x3 : Byte) (s : State) : Result :=
  complete 0 (tallyWrite [x0, x1, x2, x3] s)

/-- RD.COUNT (40_histogram.md R105). -/
def execRdCount (s : State) : Result := complete s.N s

/-- RD.BIN (40_histogram.md R106). -/
def execRdBin (v : Byte) (s : State) : Result := complete (bin s v) s

end Sys2Proof.Machine
end

