-- ==== Sys2Proof/Machine/Float64.lean ====
section
/-! DEFINITION. IEEE 754 binary64 (00_scope.md R11) on 64-bit encodings: each operation computes the
exact value as an integer or a ratio of integers and rounds it once, roundTiesToEven.

Every finite binary64 number is an integer number of UNITS of 2^-1074, so a finite magnitude is a
natural number here. Entry 6 for the source of the IEEE definitions and for NaN.

In sums and products a large literal stands on the left: Lean's kernel recurses on the right operand, and
would count a literal there down one by one when the other operand is a variable. -/

namespace Sys2Proof.Machine

/-- A binary64 datum: a NaN, an infinity, or a sign and a magnitude in units of 2^-1074. -/
inductive F64Class where
  | nan
  | inf (neg : Bool)
  | fin (neg : Bool) (units : Nat)
deriving DecidableEq, Repr

/-- How many units 1 is. -/
def unitsPerOne : Nat := 2 ^ 1074

/-- The magnitude, in units, of the finite encoding with these 63 low bits: the fraction itself when
the biased exponent is 0, and with its hidden bit and shifted by the exponent otherwise. -/
def unitsOf (mag : Nat) : Nat :=
  let ex := mag / 2 ^ 52
  let fr := mag % 2 ^ 52
  if ex = 0 then fr else (2 ^ 52 + fr) * 2 ^ (ex - 1)

/-- The 63 low bits of the infinities. -/
def infMag : Nat := 2047 * 2 ^ 52

/-- The datum an encoding stands for: sign bit 63, biased exponent bits 62..52, fraction bits 51..0. -/
def unpack (x : F64) : F64Class :=
  let neg := x.getLsbD 63
  let mag := x.toNat % 2 ^ 63
  if mag < infMag then .fin neg (unitsOf mag) else if mag = infMag then .inf neg else .nan

/-- The encoding with this sign and these 63 low bits. -/
def packMag (neg : Bool) (mag : Nat) : F64 :=
  BitVec.ofNat 64 ((if neg then 2 ^ 63 else 0) + mag)

/-- A quiet NaN whose sign and payload are free (`Config.nanBits`). -/
def freeNaN (a b : F64) : F64 :=
  let bits := Config.nanBits a b
  (bits.extractLsb' 51 1 ++ 0xFFF#12 ++ bits.extractLsb' 0 51 : BitVec (1 + 12 + 51))

/-- The floor of the binary logarithm of `n`, for `n < 2^(2^k)`, by halving the range. It is `Nat.log2`
there (Laws/Float64.lean), and Lean's kernel evaluates it in `k` steps. -/
def floorLog2 : Nat → Nat → Nat
  | 0, _ => 0
  | k + 1, n => if n < 2 ^ 2 ^ k then floorLog2 k n else 2 ^ k + floorLog2 k (n / 2 ^ 2 ^ k)

/-- `n / d` rounded to an integer, ties to even. -/
def divTiesToEven (n d : Nat) : Nat :=
  let q := n / d
  let r := n % d
  if d < 2 * r ∨ (d = 2 * r ∧ q % 2 = 1) then q + 1 else q

/-- How far above one unit the last place of the result stands, for an exact magnitude of `n / d`
units: a normal result has 53 significant bits. -/
def roundShift (n d : Nat) : Nat := floorLog2 12 (n / d) - 52

/-- The 63 low bits of the exact magnitude `n / d` units rounded once, roundTiesToEven. With `m` the
significand and `sh` its shift, `2^52 * sh + m` is the encoding, for subnormal numbers too and where
rounding carries into the next binade. A magnitude too large for a finite number is an infinity. -/
def roundMag (n d : Nat) : Nat :=
  let sh := roundShift n d
  min infMag (2 ^ 52 * sh + divTiesToEven n (d * 2 ^ sh))

/-- The exact number of this sign and of magnitude `n / d` units, rounded once. -/
def roundUnits (neg : Bool) (n d : Nat) : F64 := packMag neg (roundMag n d)

/-- `0.0` (00_scope.md R11). -/
def f64Zero : F64 := 0x0000000000000000

/-- `1.0` (00_scope.md R11). -/
def f64One : F64 := 0x3FF0000000000000

/-- `f64_of_nat(k)`, exact for k < 2^53 (00_scope.md R11). -/
def f64OfNat (k : Nat) : F64 := roundUnits false (unitsPerOne * k) 1

/-- The sum of two finite data. An exact zero sum of unlike signs is +0.0. -/
def addUnits (na : Bool) (a : Nat) (nb : Bool) (b : Nat) : F64 :=
  if na = nb then roundUnits na (a + b) 1
  else if b < a then roundUnits na (a - b) 1
  else if a < b then roundUnits nb (b - a) 1
  else f64Zero

/-- `f64_add(a, b)` (00_scope.md R11). -/
def f64Add (a b : F64) : F64 :=
  match unpack a, unpack b with
  | .fin na x, .fin nb y => addUnits na x nb y
  | .inf na, .inf nb => if na = nb then packMag na infMag else freeNaN a b
  | .inf na, .fin _ _ => packMag na infMag
  | .fin _ _, .inf nb => packMag nb infMag
  | .nan, _ => freeNaN a b
  | _, .nan => freeNaN a b

/-- The sign of an encoding inverted. -/
def f64Neg (a : F64) : F64 := a ^^^ 0x8000000000000000#64

/-- `f64_sub(a, b)` (00_scope.md R11): the sum of `a` and `-b`. -/
def f64Sub (a b : F64) : F64 := f64Add a (f64Neg b)

/-- `f64_mul(a, b)` (00_scope.md R11). -/
def f64Mul (a b : F64) : F64 :=
  match unpack a, unpack b with
  | .fin na x, .fin nb y => roundUnits (na ^^ nb) (x * y) unitsPerOne
  | .inf na, .inf nb => packMag (na ^^ nb) infMag
  | .inf na, .fin nb y => if y = 0 then freeNaN a b else packMag (na ^^ nb) infMag
  | .fin na x, .inf nb => if x = 0 then freeNaN a b else packMag (na ^^ nb) infMag
  | .nan, _ => freeNaN a b
  | _, .nan => freeNaN a b

/-- `f64_div(a, b)` (00_scope.md R11). -/
def f64Div (a b : F64) : F64 :=
  match unpack a, unpack b with
  | .fin na x, .fin nb y =>
    if y = 0 then (if x = 0 then freeNaN a b else packMag (na ^^ nb) infMag)
    else roundUnits (na ^^ nb) (unitsPerOne * x) y
  | .inf _, .inf _ => freeNaN a b
  | .inf na, .fin nb _ => packMag (na ^^ nb) infMag
  | .fin na _, .inf nb => packMag (na ^^ nb) 0
  | .nan, _ => freeNaN a b
  | _, .nan => freeNaN a b

/-- A finite datum as a signed number of units. -/
def signedUnits (neg : Bool) (x : Nat) : Int := if neg then -(x : Int) else x

/-- `f64_lt(a, b)` (00_scope.md R11): the ordered comparison, false when either operand is a NaN. -/
def f64Lt (a b : F64) : Bool :=
  match unpack a, unpack b with
  | .fin na x, .fin nb y => signedUnits na x < signedUnits nb y
  | .inf na, .inf nb => na && !nb
  | .inf na, .fin _ _ => na
  | .fin _ _, .inf nb => !nb
  | .nan, _ => false
  | _, .nan => false

/-- `k x`. Matching on the number behind `x` makes a kernel evaluation settle `x` before it goes on;
`forced_eq` (Laws/Float64.lean) removes it. -/
def forced {α : Type} (x : F64) (k : F64 → α) : α :=
  match x.toNat with
  | 0 => k 0#64
  | n + 1 => k (BitVec.ofNat 64 (n + 1))

end Sys2Proof.Machine
end

