-- ==== Sys2Proof/Machine/Otsu.lean ====
section
/-! DEFINITION. The meanings of 41_otsu.md: SOLVE, RD.THRESH, RD.VARLO, RD.VARHI. The intermediate values
of a solve are values of these functions and no state (10_state.md R31). -/

namespace Sys2Proof.Machine

/-- Step 1, normalisation (41_otsu.md R121): `p[i] = f64_div(f64_of_nat(H[i]), f64_of_nat(N))`. -/
def probabilities (H : Vector Word 256) (N : Word) : List F64 :=
  forced (f64OfNat N.toNat) fun n => H.toList.map fun h => f64Div (f64OfNat h.toNat) n

/-- The sum `mg + i·p[i] + (i+1)·p[i+1] + …`, one rounded product and one rounded addition per bin, in
increasing order of i (41_otsu.md R122). -/
def meanFrom : Nat → F64 → List F64 → F64
  | _, mg, [] => mg
  | i, mg, p :: ps => forced (f64Add mg (f64Mul (f64OfNat i) p)) fun mg => meanFrom (i + 1) mg ps

/-- Step 2, the global mean (41_otsu.md R122). -/
def globalMean (ps : List F64) : F64 := meanFrom 0 f64Zero ps

/-- The running values of the sweep (41_otsu.md R123). -/
structure Sweep where
  w : F64
  mu : F64
  best : F64
  t : Byte
  found : Bool
deriving DecidableEq, Repr

/-- The initial values of the sweep (41_otsu.md R123). -/
def Sweep.initial : Sweep where
  w := f64Zero
  mu := f64Zero
  best := f64Zero
  t := 0
  found := false

/-- The candidate test `0 < ω < 1`, on the rounded sum (41_otsu.md R125). -/
def isCandidate (w : F64) : Bool := f64Lt f64Zero w && f64Lt w f64One

/-- The between-class variance of a candidate: these six operations in this order (41_otsu.md R126). -/
def variance (mg w mu : F64) : F64 :=
  let a := f64Mul mg w
  let b := f64Sub a mu
  let num := f64Mul b b
  let d := f64Sub f64One w
  let den := f64Mul w d
  f64Div num den

/-- One index of the sweep: the sums first (41_otsu.md R124), then the candidate test (R125), then the
argmax, which keeps the earlier index on a tie (R127). -/
def sweepAt (mg : F64) (i : Nat) (p : F64) (a : Sweep) : Sweep :=
  forced (f64Add a.w p) fun w =>
  forced (f64Add a.mu (f64Mul (f64OfNat i) p)) fun mu =>
  if isCandidate w then
    forced (variance mg w mu) fun var =>
    if f64Lt a.best var then
      { w := w, mu := mu, best := var, t := BitVec.ofNat 8 i, found := true }
    else { w := w, mu := mu, best := a.best, t := a.t, found := true }
  else { w := w, mu := mu, best := a.best, t := a.t, found := a.found }

/-- The sweep from index i on: every index once, in increasing order, no early exit (41_otsu.md R128). -/
def sweepFrom (mg : F64) : Nat → List F64 → Sweep → Sweep
  | _, [], a => a
  | i, p :: ps, a => sweepFrom mg (i + 1) ps (sweepAt mg i p a)

/-- The whole computation of a solve with N at least 1 (41_otsu.md R120). -/
def otsu (H : Vector Word 256) (N : Word) : Sweep :=
  let ps := probabilities H N
  forced (globalMean ps) fun mg => sweepFrom mg 0 ps Sweep.initial

/-- Step 6: the commit of R129 when a candidate was found, of R130 when none was. -/
def commitSolve (a : Sweep) (s : State) : State :=
  if a.found then
    { s with THRESH := a.t, VARMAX := a.best, STATUS := currentResult false s.STATUS }
  else { s with THRESH := 0, VARMAX := 0, STATUS := currentResult true s.STATUS }

/-- SOLVE (41_otsu.md R120). With N = 0 it does no floating-point work (R131). -/
def execSolve (s : State) : Result :=
  if s.N = 0 then complete 0 (raiseError .empty (invalidate s))
  else complete 0 (commitSolve (otsu s.H s.N) s)

/-- RD.THRESH (41_otsu.md R137). -/
def execRdThresh (s : State) : Result := complete (threshWord s) s

/-- RD.VARLO (41_otsu.md R138). -/
def execRdVarlo (s : State) : Result := complete (varmaxLo s) s

/-- RD.VARHI (41_otsu.md R139). -/
def execRdVarhi (s : State) : Result := complete (varmaxHi s) s

end Sys2Proof.Machine
end

