-- ==== Sys2Proof/Machine/Dispatch.lean ====
section
/-! DEFINITION. The meaning of every instruction: one arm per constructor of Instr. -/

namespace Sys2Proof.Machine

/-- The effect of one transaction (00_scope.md R6, 30_encoding.md R71). -/
def exec (i : Instr) (s : State) : Host.Outcome State Fault Refusal :=
  match i with
  | .nop => Sys2Proof.Machine.execNop s
  | .clear => Sys2Proof.Machine.execClear s
  | .solve => Sys2Proof.Machine.execSolve s
  | .cmdBad rsv op => Sys2Proof.Machine.execCmdBad rsv op s
  | .rdStatus => Sys2Proof.Machine.execRdStatus s
  | .wrStatus m => Sys2Proof.Machine.execWrStatus m s
  | .tally1 x => Sys2Proof.Machine.execTally1 x s
  | .tally1Bad data => Sys2Proof.Machine.execTally1Bad data s
  | .tally4 x0 x1 x2 x3 => Sys2Proof.Machine.execTally4 x0 x1 x2 x3 s
  | .rdCount => Sys2Proof.Machine.execRdCount s
  | .rdThresh => Sys2Proof.Machine.execRdThresh s
  | .rdVarlo => Sys2Proof.Machine.execRdVarlo s
  | .rdVarhi => Sys2Proof.Machine.execRdVarhi s
  | .rdBin v => Sys2Proof.Machine.execRdBin v s
  | .accBad a => Sys2Proof.Machine.execAccBad a s

end Sys2Proof.Machine
end

