-- ==== Sys2Proof/Machine/Step.lean ====
section
/-! DEFINITION. One step: the next port event. -/

namespace Sys2Proof.Machine

/-- One step takes the next port event. A request is decoded and performed (00_scope.md R6, 20_memory.md
R61), a reset resets (70_reset_and_hazards.md R190, R192), and with no event the state is retained. -/
def step (s : State) : Host.Outcome State Fault Refusal :=
  match s.pending with
  | [] => .next (idle s)
  | .request t :: es => exec (decode t) (withPending es s)
  | .reset :: es => .next (resetEvent (withPending es s))
  | .resetDuring _ :: es => .next (resetOutstanding (withPending es s))

/-- `s` with the request of this transaction word as the next port event: HAOS takes its transactions
from the host, and the host's next one is the first of `pending` (entry 1). -/
def State.withFetchWord (s : State) (nbits w : Nat) : State := placeRequest nbits w s

end Sys2Proof.Machine
end

