-- ==== Sys2Proof/Safety.lean ====
section
/-! DEFINITION. The terms in which claims are stated: the reachable states, the invariants that the spec
gives them, tally sequences, the error an operation raises, and the solve written index by index as in
41_otsu.md. Nothing in the machine uses these. -/

namespace Sys2Proof.Machine

/-! ### Runs -/

/-- `s` is reached in `n` steps from reset under the port events `es`. -/
def reaches (es : List PortEvent) (n : Nat) (s : State) : Prop :=
  Host.Core.run Sys2Proof.core n (withPending es State.reset) = .next s

/-- The instructions one after another. -/
def execAll : List Instr → State → Result
  | [], s => .next s
  | i :: is, s =>
    match exec i s with
    | .next s' => execAll is s'
    | .fault r => .fault r
    | .refused r => .refused r

/-! ### Tally writes -/

/-- A tally write: TALLY1 or TALLY4. -/
inductive TallyWrite where
  | one (x : Byte)
  | four (x0 x1 x2 x3 : Byte)
deriving DecidableEq, Repr

/-- Its instruction. -/
def TallyWrite.instr : TallyWrite → Instr
  | .one x => .tally1 x
  | .four x0 x1 x2 x3 => .tally4 x0 x1 x2 x3

/-- The samples it presents. -/
def TallyWrite.samples : TallyWrite → List Byte
  | .one x => [x]
  | .four x0 x1 x2 x3 => [x0, x1, x2, x3]

/-- The samples that a sequence of tally writes presents. -/
def allSamples (ws : List TallyWrite) : List Byte := ws.flatMap TallyWrite.samples

/-- The samples that an instruction presents for tallying. -/
def offered : Instr → List Byte
  | .tally1 x => [x]
  | .tally4 x0 x1 x2 x3 => [x0, x1, x2, x3]
  | .nop => []
  | .clear => []
  | .solve => []
  | .cmdBad _ _ => []
  | .rdStatus => []
  | .wrStatus _ => []
  | .tally1Bad _ => []
  | .rdCount => []
  | .rdThresh => []
  | .rdVarlo => []
  | .rdVarhi => []
  | .rdBin _ => []
  | .accBad _ => []

/-! ### Errors -/

/-- The error that an operation raises in a state, or none (60_exceptions.md R170, R174). -/
def raised (i : Instr) (s : State) : Option ErrorClass :=
  match i with
  | .solve => if s.N = 0 then some .empty else none
  | .tally1 _ => if s.N.toNat + 1 > 0xFFFFFFFF then some .ovf else none
  | .tally4 _ _ _ _ => if s.N.toNat + 4 > 0xFFFFFFFF then some .ovf else none
  | .tally1Bad _ => some .range
  | .cmdBad _ _ => some .cmd
  | .accBad _ => some .acc
  | .nop => none
  | .clear => none
  | .rdStatus => none
  | .wrStatus _ => none
  | .rdCount => none
  | .rdThresh => none
  | .rdVarlo => none
  | .rdVarhi => none
  | .rdBin _ => none

/-- `t` is the state after the tally writes from `s`, each of them successful (40_histogram.md R108). -/
def AllTallied : List TallyWrite → State → State → Prop
  | [], s, t => s = t
  | w :: ws, s, t => raised w.instr s = none ∧ ∃ u, exec w.instr s = .next u ∧ AllTallied ws u t

/-- The bit of STATUS, and of an acknowledge mask, that belongs to an error class (10_state.md R26). -/
def statusBit : ErrorClass → Nat
  | .empty => 2
  | .ovf => 3
  | .range => 4
  | .cmd => 5
  | .acc => 6

/-- Two states that differ at most in STATUS[6:2] and CAUSE. -/
def sameButErrors (a b : State) : Prop :=
  a.H = b.H ∧ a.N = b.N ∧ a.THRESH = b.THRESH ∧ a.VARMAX = b.VARMAX ∧
  a.STATUS.VALID = b.STATUS.VALID ∧ a.STATUS.DEGEN = b.STATUS.DEGEN ∧
  a.txIndex = b.txIndex ∧ a.pending = b.pending

/-- Two states with the same state of HAOS itself (10_state.md R20). -/
def sameRegisters (a b : State) : Prop :=
  a.H = b.H ∧ a.N = b.N ∧ a.THRESH = b.THRESH ∧ a.VARMAX = b.VARMAX ∧ a.STATUS = b.STATUS

/-! ### The solve, index by index (41_otsu.md R120) -/

/-- `p[i]` (41_otsu.md R121). -/
def refP (s : State) (i : Nat) : F64 :=
  f64Div (f64OfNat (bin s (BitVec.ofNat 8 i)).toNat) (f64OfNat s.N.toNat)

/-- `mg` after the first `n` terms (41_otsu.md R122). -/
def refMean (s : State) : Nat → F64
  | 0 => f64Zero
  | i + 1 => f64Add (refMean s i) (f64Mul (f64OfNat i) (refP s i))

/-- `w` after the first `n` updates, so that ω(i) is `refW s (i + 1)` (41_otsu.md R124). -/
def refW (s : State) : Nat → F64
  | 0 => f64Zero
  | i + 1 => f64Add (refW s i) (refP s i)

/-- `mu` after the first `n` updates, so that μ(i) is `refMu s (i + 1)` (41_otsu.md R124). -/
def refMu (s : State) : Nat → F64
  | 0 => f64Zero
  | i + 1 => f64Add (refMu s i) (f64Mul (f64OfNat i) (refP s i))

/-- Index `i` is a candidate (41_otsu.md R125). -/
def refCandidate (s : State) (i : Nat) : Bool :=
  f64Lt f64Zero (refW s (i + 1)) && f64Lt (refW s (i + 1)) f64One

/-- `b` of index `i`: μ_global · ω(i) − μ(i) (41_otsu.md R126). -/
def refDeviation (s : State) (i : Nat) : F64 :=
  f64Sub (f64Mul (refMean s 256) (refW s (i + 1))) (refMu s (i + 1))

/-- `den` of index `i`: ω(i) · (1 − ω(i)) (41_otsu.md R126). -/
def refDenominator (s : State) (i : Nat) : F64 :=
  f64Mul (refW s (i + 1)) (f64Sub f64One (refW s (i + 1)))

/-- `var` of index `i` (41_otsu.md R126). -/
def refVar (s : State) (i : Nat) : F64 :=
  f64Div (f64Mul (refDeviation s i) (refDeviation s i)) (refDenominator s i)

/-- `best` and `t` after the first `n` indices (41_otsu.md R123, R127). -/
def refArgmax (s : State) : Nat → F64 × Byte
  | 0 => (f64Zero, 0)
  | i + 1 =>
    if refCandidate s i = true ∧ f64Lt (refArgmax s i).1 (refVar s i) = true then
      (refVar s i, BitVec.ofNat 8 i)
    else refArgmax s i

/-- `found` after the first `n` indices (41_otsu.md R120). -/
def refFound (s : State) : Nat → Bool
  | 0 => false
  | i + 1 => refFound s i || refCandidate s i

/-! ### binary64 values -/

/-- The value of a finite datum, in units of 2^-1074. -/
def finiteValue (x : F64) : Option Int :=
  match unpack x with
  | .fin neg u => some (signedUnits neg u)
  | .inf _ => none
  | .nan => none

/-- The magnitude in units from which roundTiesToEven answers an infinity: the largest finite number and
half of its last place. -/
def overflowUnits : Nat := (2 ^ 54 - 1) * 2 ^ 2044

/-- `x` is the exact number of `num / den` units, rounded once with roundTiesToEven: an infinity of its
sign where it overflows; otherwise finite, no finite number is nearer, and one equally near is passed
over only for an even encoding. -/
def RoundsToNearest (x : F64) (num : Int) (den : Nat) : Prop :=
  (overflowUnits * den ≤ num.natAbs → unpack x = .inf (decide (num < 0))) ∧
  (num.natAbs < overflowUnits * den → ∃ r, finiteValue x = some r) ∧
  ∀ r, finiteValue x = some r → ∀ c v, finiteValue c = some v →
    (num - den * r).natAbs ≤ (num - den * v).natAbs ∧
    ((num - den * r).natAbs = (num - den * v).natAbs → v ≠ r → x.getLsbD 0 = false)

/-- Neither a NaN nor an infinity. -/
def isFinite (x : F64) : Prop := ∃ r, finiteValue x = some r

/-! ### What holds in every reachable state -/

/-- The sum of all bins, without wrap-around. -/
def binSum (H : Vector Word 256) : Nat := (H.toList.map BitVec.toNat).sum

/-- Histogram conservation (10_state.md R23). -/
def Conserved (s : State) : Prop := s.N.toNat = binSum s.H

/-- A result that VALID calls current is what a solve of the current histogram commits, and the
histogram is not empty (10_state.md R27). -/
def ResultCurrent (s : State) : Prop :=
  s.STATUS.VALID = true →
    s.N ≠ 0 ∧ s.THRESH = (if (otsu s.H s.N).found then (otsu s.H s.N).t else 0) ∧
    s.VARMAX = (if (otsu s.H s.N).found then (otsu s.H s.N).best else 0) ∧
    s.STATUS.DEGEN = !(otsu s.H s.N).found

/-- The invariant of HAOS. -/
structure Inv (s : State) : Prop where
  /-- 10_state.md R23. -/
  conserved : Conserved s
  /-- 10_state.md R27. -/
  current : ResultCurrent s
  /-- 10_state.md R28. -/
  degenValid : s.STATUS.DEGEN = true → s.STATUS.VALID = true
  /-- 10_state.md R28: a degenerate result is 0. -/
  degenZero : s.STATUS.DEGEN = true → s.THRESH = 0 ∧ s.VARMAX = 0
  /-- 10_state.md R30. -/
  causeSticky : s.STATUS.CAUSE = 0 ↔ anySticky s.STATUS = false
  /-- 10_state.md R26: CAUSE is one of 0 to 5. -/
  causeLegal : s.STATUS.CAUSE.toNat ≤ 5
  /-- 41_otsu.md R139: the sign of VARMAX is 0. -/
  varmaxSign : s.VARMAX.getLsbD 63 = false
  /-- With no sample since CLEAR or reset, THRESH and VARMAX are 0 (95_test_vectors.md, section 2.2). -/
  emptyZero : s.N = 0 → s.THRESH = 0 ∧ s.VARMAX = 0

end Sys2Proof.Machine
end

