-- ==== Sys2Proof/Certificates/Slice0/Obligations.lean ====
section
/-! DEFINITION. The statements about HAOS, from the numbered rules of spec/. -/

open Sys2Proof Sys2Proof.Machine

/-! ### Encoding (30_encoding.md) -/

/-- The encoding of a well-formed instruction decodes to it, with every operand (R70, R71, R78). -/
def Obligations.DecodeEncodeRoundTrip : Prop :=
  ∀ i : Instr, i.wellFormed = true → decode (encode i) = i

/-- Each transaction word is the encoding of what it decodes to, but for a read's ignored DATA (R70, R78). -/
def Obligations.EncodeDecodeRoundTrip : Prop :=
  ∀ t : TWord, encode (decode t) =
    mkT (isWrite t) (sizeField t) (offField t) (if isWrite t then dataField t else 0)

/-- Decoding never makes an instruction whose operands its row excludes (R71, R73, R74, R156). -/
def Obligations.DecodedInstructionIsWellFormed : Prop :=
  ∀ t : TWord, (decode t).wellFormed = true

/-- The DATA of a read does not reach the decoded operation (R70, R77). -/
def Obligations.ReadDataIsIgnored : Prop :=
  ∀ (sz : BitVec 2) (off : Offset) (d d' : Word),
    decode (mkT false sz off d) = decode (mkT false sz off d')

/-- The worked encodings of R83, each word both ways where it is an encoding. -/
def Obligations.WorkedEncodingsDecode : Prop :=
  decode 0x300CC80AC80A = .tally4 10 200 10 200 ∧ encode (.tally4 10 200 10 200) = 0x300CC80AC80A ∧
  decode 0x300800000007 = .tally1 7 ∧ encode (.tally1 7) = 0x300800000007 ∧
  decode 0x300800000100 = .tally1Bad 0x100 ∧ encode (.tally1Bad 0x100) = 0x300800000100 ∧
  decode 0x172000000000 = .rdBin 200 ∧ encode (.rdBin 200) = 0x172000000000 ∧
  binOffset 200 = 0x720 ∧
  decode 0x001000000000 = .accBad (.read 0 0x010) ∧
  decode 0x140200000000 = .accBad (.read 2 0x402) ∧
  (0x140200000000 : TWord) &&& 0x3C0300000000 = 0x140200000000 ∧
  (0x140200000000 : TWord) ≠ 0x140000000000

/-- The command words: R72's fields and R73's opcodes. -/
def Obligations.CommandWordsDecode : Prop :=
  ∀ (rsv : BitVec 24) (op : Byte),
    decode (mkT true 2 0x000 (rsv ++ op : BitVec (24 + 8))) =
      if rsv ≠ 0 then .cmdBad rsv op
      else if op = 0x00 then .nop
      else if op = 0x01 then .clear
      else if op = 0x02 then .solve
      else .cmdBad rsv op

/-- The SAMPLE1 operand: all 32 bits are one unsigned value, and none above 255 is reduced (R74). -/
def Obligations.SampleOneDecodes : Prop :=
  ∀ d : Word,
    (d.toNat ≤ 255 → decode (mkT true 2 0x008 d) = .tally1 (d.extractLsb' 0 8) ∧
      (d.extractLsb' 0 8).toNat = d.toNat) ∧
    (255 < d.toNat → decode (mkT true 2 0x008 d) = .tally1Bad d)

/-- The SAMPLE4 operand: every DATA is a legal TALLY4 of its four byte lanes (R75). -/
def Obligations.SampleFourDecodes : Prop :=
  ∀ d : Word, decode (mkT true 2 0x00C d) =
    .tally4 (BitVec.ofNat 8 d.toNat) (BitVec.ofNat 8 (d.toNat / 2 ^ 8))
      (BitVec.ofNat 8 (d.toNat / 2 ^ 16)) (BitVec.ofNat 8 (d.toNat / 2 ^ 24))

/-- A word read at `0x400 + 4·v` is RD.BIN of bin v, and those are all the offsets with OFF[10] = 1 and
OFF[1:0] = 0 (R76). -/
def Obligations.BinOffsetsDecode : Prop :=
  (∀ (v : Byte) (d : Word), decode (mkT false 2 (BitVec.ofNat 11 (0x400 + 4 * v.toNat)) d) = .rdBin v) ∧
  (∀ (off : Offset) (d : Word), off.getLsbD 10 = true → off.extractLsb' 0 2 = 0 →
    decode (mkT false 2 off d) = .rdBin (off.extractLsb' 2 8) ∧
    off.toNat = 0x400 + 4 * (off.extractLsb' 2 8).toNat)

/-- The complete map of the window: which operation each access is (R52). -/
def Obligations.AddressMapDecodes : Prop :=
  ∀ (sz : BitVec 2) (off : Offset) (d : Word),
    (decode (mkT true sz off d) =
      if sz ≠ 2 ∨ off.toNat % 4 ≠ 0 ∨ (0x020 ≤ off.toNat ∧ off.toNat ≤ 0x3FF) then
        .accBad (.write sz off d)
      else if off = 0x000 then
        (if d = 0 then .nop else if d = 1 then .clear else if d = 2 then .solve
          else .cmdBad (d.extractLsb' 8 24) (d.extractLsb' 0 8))
      else if off = 0x004 then .wrStatus d
      else if off = 0x008 then
        (if d.toNat ≤ 255 then .tally1 (d.extractLsb' 0 8) else .tally1Bad d)
      else if off = 0x00C then
        .tally4 (d.extractLsb' 0 8) (d.extractLsb' 8 8) (d.extractLsb' 16 8) (d.extractLsb' 24 8)
      else .accBad (.write sz off d)) ∧
    (decode (mkT false sz off d) =
      if sz ≠ 2 ∨ off.toNat % 4 ≠ 0 ∨ (0x020 ≤ off.toNat ∧ off.toNat ≤ 0x3FF) then
        .accBad (.read sz off)
      else if off = 0x004 then .rdStatus
      else if off = 0x010 then .rdCount
      else if off = 0x014 then .rdThresh
      else if off = 0x018 then .rdVarlo
      else if off = 0x01C then .rdVarhi
      else if 0x400 ≤ off.toNat then .rdBin (BitVec.ofNat 8 ((off.toNat - 0x400) / 4))
      else .accBad (.read sz off))

/-- An access that is not an aligned 32-bit one records ACC_ERR, responds 0 and does nothing else: it is
not split, rotated or rounded down (R54, R55). -/
def Obligations.OnlyAlignedWordsAreSupported : Prop :=
  ∀ (s : State) (t : TWord), sizeField t ≠ 2 ∨ (offField t).extractLsb' 0 2 ≠ 0 →
    exec (decode t) s = .next { s with
      STATUS := { s.STATUS with
        ACC_ERR := true
        CAUSE := if s.STATUS.CAUSE = 0 then 5 else s.STATUS.CAUSE }
      response := some 0
      txIndex := s.txIndex + 1 }

/-- The platform forwards exactly the accesses in [BASE, BASE + 2047], at OFF = address - BASE, and BASE
is a multiple of 2048 (R53, R9). The model's BASE is opaque (entry 4). -/
def Obligations.WindowForwarding : Prop :=
  2048 ∣ Config.base ∧
  ∀ (a : Nat) (n : AccessSize) (v : Word),
    (Config.base ≤ a → a ≤ Config.base + 2047 → ∃ off : Offset, off.toNat = a - Config.base ∧
      hostRead a n = some (mkT false (sizeCode n) off 0) ∧
      hostWrite a n v = some (mkT true (sizeCode n) off v)) ∧
    (a < Config.base ∨ Config.base + 2047 < a → hostRead a n = none ∧ hostWrite a n v = none)

/-! ### Steps, reset and completion (00_scope.md, 20_memory.md, 70_reset_and_hazards.md) -/

/-- A step takes the next request off the pending events and performs the instruction that it decodes
to, the encoding of a well-formed instruction performing that instruction (R6, R61, R71). The queue of
pending events is the model's (entry 1). -/
def Obligations.StepPerformsDecodedTransaction : Prop :=
  ∀ (s : State) (es : List PortEvent),
    (∀ t : TWord, s.pending = .request t :: es → step s = exec (decode t) { s with pending := es }) ∧
    (∀ i : Instr, i.wellFormed = true → s.pending = .request (encode i) :: es →
      step s = exec i { s with pending := es })

/-- Every piece of state after reset (R34). -/
def Obligations.ResetValues : Prop :=
  (∀ v, bin State.reset v = 0) ∧ State.reset.N = 0 ∧ State.reset.THRESH = 0 ∧
  State.reset.VARMAX = 0x0000000000000000 ∧ statusWord State.reset.STATUS = 0x00000000 ∧
  State.reset.STATUS.VALID = false ∧ State.reset.STATUS.DEGEN = false ∧
  State.reset.STATUS.EMPTY_ERR = false ∧ State.reset.STATUS.OVF_ERR = false ∧
  State.reset.STATUS.RANGE_ERR = false ∧ State.reset.STATUS.CMD_ERR = false ∧
  State.reset.STATUS.ACC_ERR = false ∧ State.reset.STATUS.CAUSE = 0

/-- A cycle with `rst = 1` sets every register to its reset value, takes no request and gives no
response, whatever the state before; without a reset or a request no register changes (R190). That a
reset is an event of the pending queue is the model's choice (entry 1). -/
def Obligations.ResetIsTheOnlyOtherEvent : Prop :=
  ∀ s : State,
    (∀ es, s.pending = .reset :: es → ∃ t, step s = .next t ∧ (∀ v, bin t v = 0) ∧ t.N = 0 ∧
      t.THRESH = 0 ∧ t.VARMAX = 0 ∧ statusWord t.STATUS = 0x00000000 ∧
      sameRegisters t State.reset ∧ t.response = none ∧ t.pending = es) ∧
    (s.pending = [] → ∃ t, step s = .next t ∧ sameRegisters t s)

/-- A request outstanding when reset is asserted gets no response, and the registers are the reset
state, the same as when the operation had taken effect before the reset (R192). The queue and its
event `resetDuring` are the model's choices (entries 1 and 3). -/
def Obligations.ResetDiscardsOutstandingTransaction : Prop :=
  ∀ (s : State) (t : TWord) (es : List PortEvent), s.pending = .resetDuring t :: es →
    ∃ u, step s = .next u ∧ sameRegisters u State.reset ∧ u.response = none ∧ u.pending = es ∧
      ∃ v w, exec (decode t) { s with pending := .reset :: es } = .next v ∧ step v = .next w ∧
        sameRegisters w u

/-- Every operation, an erroneous one too, advances the transaction index by exactly one, and none
transfers control: the host's coming events stay as they are (R12). -/
def Obligations.EveryOperationAdvancesByOne : Prop :=
  ∀ (i : Instr) (s : State), ∃ t, exec i s = .next t ∧ t.txIndex = s.txIndex + 1 ∧
    t.pending = s.pending

/-- Every accepted request gets its response, and no run ever stops, whatever the port events (R201).
The model has no cycles (entry 5): the response stands in the state after the transaction. -/
def Obligations.EveryRequestIsAnswered : Prop :=
  (∀ (s : State) (t : TWord), ∃ u d, exec (decode t) s = .next u ∧ u.response = some d) ∧
  (∀ (n : Nat) (s : State), ∃ t, Host.Core.run Sys2Proof.core n s = .next t)

/-- Every write, and every read that is ACC.BAD, responds with 0, and the reserved fields of STATUS and
THRESH read as 0 (R56). -/
def Obligations.WritesAndRefusedReadsRespondZero : Prop :=
  (∀ (t : TWord) (s : State), isWrite t = true →
    ∃ u, exec (decode t) s = .next u ∧ u.response = some 0) ∧
  (∀ (t : TWord) (s : State) (a : BadAccess), isWrite t = false → decode t = .accBad a →
    ∃ u, exec (decode t) s = .next u ∧ u.response = some 0) ∧
  (∀ s : State, ∃ u w, exec .rdStatus s = .next u ∧ u.response = some w ∧
    w.getLsbD 7 = false ∧ w.extractLsb' 12 20 = 0) ∧
  (∀ s : State, ∃ u w, exec .rdThresh s = .next u ∧ u.response = some w ∧ w.extractLsb' 8 24 = 0)

/-! ### Histogram operations (40_histogram.md) -/

/-- CLEAR zeroes the histogram, N, THRESH, VARMAX, VALID and DEGEN and keeps the errors (R100). -/
def Obligations.ClearStartsFreshHistogram : Prop :=
  decode 0x300000000001 = .clear ∧
  ∀ s : State, ∃ t, exec .clear s = .next t ∧ (∀ v, bin t v = 0) ∧ t.N = 0 ∧ t.THRESH = 0 ∧
    t.VARMAX = 0x0000000000000000 ∧
    t.STATUS = { s.STATUS with VALID := false, DEGEN := false } ∧
    t.response = some 0 ∧ t.txIndex = s.txIndex + 1 ∧ t.pending = s.pending

/-- TALLY1: one more in the sample's bin and in N, nothing else but VALID and DEGEN cleared; at
N = COUNT_MAX it records OVF_ERR and changes nothing else (R102, R101). -/
def Obligations.TallyOneSample : Prop :=
  ∀ (x : Byte) (s : State),
    decode (BitVec.ofNat 46 (0x300800000000 + x.toNat)) = .tally1 x ∧
    (s.N ≠ 0xFFFFFFFF → ∃ t, exec (.tally1 x) s = .next t ∧
      bin t x = bin s x + 1 ∧ (∀ v, v ≠ x → bin t v = bin s v) ∧ t.N = s.N + 1 ∧
      t.THRESH = s.THRESH ∧ t.VARMAX = s.VARMAX ∧
      t.STATUS = { s.STATUS with VALID := false, DEGEN := false } ∧
      t.response = some 0 ∧ t.txIndex = s.txIndex + 1 ∧ t.pending = s.pending) ∧
    (s.N = 0xFFFFFFFF → exec (.tally1 x) s = .next { s with
      STATUS := { s.STATUS with
        OVF_ERR := true
        CAUSE := if s.STATUS.CAUSE = 0 then 2 else s.STATUS.CAUSE }
      response := some 0
      txIndex := s.txIndex + 1 })

/-- TALLY4: each bin gains the number of lanes that hold it, N gains 4; with N at 0xFFFFFFFC or more it
records OVF_ERR and tallies none of the four (R104). -/
def Obligations.TallyFourSamples : Prop :=
  ∀ (x0 x1 x2 x3 : Byte) (s : State),
    decode (BitVec.ofNat 46 (0x300C00000000 + x0.toNat + 2 ^ 8 * x1.toNat + 2 ^ 16 * x2.toNat +
      2 ^ 24 * x3.toNat)) = .tally4 x0 x1 x2 x3 ∧
    (s.N.toNat < 0xFFFFFFFC → ∃ t, exec (.tally4 x0 x1 x2 x3) s = .next t ∧
      (∀ v, bin t v = bin s v + (if v = x0 then 1 else 0) + (if v = x1 then 1 else 0) +
        (if v = x2 then 1 else 0) + (if v = x3 then 1 else 0)) ∧
      t.N = s.N + 4 ∧ t.THRESH = s.THRESH ∧ t.VARMAX = s.VARMAX ∧
      t.STATUS = { s.STATUS with VALID := false, DEGEN := false } ∧
      t.response = some 0 ∧ t.txIndex = s.txIndex + 1 ∧ t.pending = s.pending) ∧
    (0xFFFFFFFC ≤ s.N.toNat → exec (.tally4 x0 x1 x2 x3) s = .next { s with
      STATUS := { s.STATUS with
        OVF_ERR := true
        CAUSE := if s.STATUS.CAUSE = 0 then 2 else s.STATUS.CAUSE }
      response := some 0
      txIndex := s.txIndex + 1 })

/-- TALLY1.BAD: RANGE_ERR is recorded, at N = COUNT_MAX too, and nothing is tallied (R103). -/
def Obligations.OutOfRangeSampleIsRefused : Prop :=
  ∀ (d : Word) (s : State),
    (255 < d.toNat → decode (mkT true 2 0x008 d) = .tally1Bad d) ∧
    exec (.tally1Bad d) s = .next { s with
      STATUS := { s.STATUS with
        RANGE_ERR := true
        CAUSE := if s.STATUS.CAUSE = 0 then 3 else s.STATUS.CAUSE }
      response := some 0
      txIndex := s.txIndex + 1 }

/-- RD.COUNT answers N and RD.BIN answers its bin; neither changes a register. A misaligned offset in
the bin window, or a size other than 4 there, is ACC.BAD and not RD.BIN (R105, R106). -/
def Obligations.CountAndBinReads : Prop :=
  decode 0x101000000000 = .rdCount ∧
  (∀ v : Byte, decode (BitVec.ofNat 46 (0x140000000000 + 2 ^ 34 * v.toNat)) = .rdBin v) ∧
  (∀ (sz : BitVec 2) (off : Offset) (d : Word), 0x400 ≤ off.toNat →
    sz ≠ 2 ∨ off.extractLsb' 0 2 ≠ 0 → decode (mkT false sz off d) = .accBad (.read sz off)) ∧
  ∀ s : State,
    exec .rdCount s = .next { s with response := some s.N, txIndex := s.txIndex + 1 } ∧
    ∀ v : Byte,
      exec (.rdBin v) s = .next { s with response := some (bin s v), txIndex := s.txIndex + 1 }

/-- Two sequences of successful tally writes of the same multiset of samples, from the same state, reach
the same H and N (R108). Sequences whose samples keep N within COUNT_MAX are successful. -/
def Obligations.TallyOrderIndependence : Prop :=
  (∀ (s t u : State) (ws vs : List TallyWrite), (allSamples ws).Perm (allSamples vs) →
    AllTallied ws s t → AllTallied vs s u → t.H = u.H ∧ t.N = u.N) ∧
  (∀ (s : State) (ws : List TallyWrite), s.N.toNat + (allSamples ws).length ≤ 0xFFFFFFFF →
    ∃ t, AllTallied ws s t)

/-- After CLEAR, tally writes within COUNT_MAX leave in each bin the number of samples of that value and
in N the number of samples, and record no error (R110, R100, R101, R107). -/
def Obligations.HistogramCountsSamples : Prop :=
  ∀ (s : State) (ws : List TallyWrite), (allSamples ws).length ≤ 0xFFFFFFFF →
    ∃ t, execAll (.clear :: ws.map TallyWrite.instr) s = .next t ∧
      (∀ v, (bin t v).toNat = (allSamples ws).count v) ∧ t.N.toNat = (allSamples ws).length ∧
      t.STATUS = { s.STATUS with VALID := false, DEGEN := false }

/-- After CLEAR, m samples of one value c give H[c] = m, every other bin 0, and N = m (R109). -/
def Obligations.UniformImageHistogram : Prop :=
  ∀ (s : State) (c : Byte) (m : Nat) (ws : List TallyWrite), 1 ≤ m → m ≤ 0xFFFFFFFF →
    allSamples ws = List.replicate m c →
    ∃ t, execAll (.clear :: ws.map TallyWrite.instr) s = .next t ∧
      (bin t c).toNat = m ∧ (∀ v, v ≠ c → bin t v = 0) ∧ t.N.toNat = m

/-- No operation decrements a bin or writes one from the bus, and N moves only by +1 per tallied sample
or to 0: on CLEAR, and on reset. Writes to COUNT and to the bins are ACC.BAD (R111). Conservation rules
out the unreachable states in which a bin could wrap. -/
def Obligations.BinsChangeOnlyByTallies : Prop :=
  (∀ (i : Instr) (s : State), Conserved s → i ≠ .clear → ∃ t xs, exec i s = .next t ∧
    (xs = [] ∨ xs = offered i) ∧ (∀ v, (bin t v).toNat = (bin s v).toNat + xs.count v) ∧
    t.N.toNat = s.N.toNat + xs.length) ∧
  (∀ s : State, ∃ t, exec .clear s = .next t ∧ (∀ v, bin t v = 0) ∧ t.N = 0) ∧
  (∀ s : State, (∀ v, bin (resetEvent s) v = 0) ∧ (resetEvent s).N = 0) ∧
  (∀ (sz : BitVec 2) (off : Offset) (d : Word), off = 0x010 ∨ 0x400 ≤ off.toNat →
    decode (mkT true sz off d) = .accBad (.write sz off d))

/-! ### Solver operations (41_otsu.md) -/

/-- SOLVE with N = 0: EMPTY_ERR recorded, VALID and DEGEN cleared, nothing else (R131). -/
def Obligations.SolveOfEmptyHistogram : Prop :=
  ∀ s : State, s.N = 0 → exec .solve s = .next { s with
    STATUS := { s.STATUS with
      VALID := false
      DEGEN := false
      EMPTY_ERR := true
      CAUSE := if s.STATUS.CAUSE = 0 then 1 else s.STATUS.CAUSE }
    response := some 0
    txIndex := s.txIndex + 1 }

/-- SOLVE with N at least 1 commits what R120's pseudocode computes, the sums, candidates, variances and
argmax written index by index in Safety.lean; with N = 0 it is the EMPTY error (R120, R129, R130). -/
def Obligations.SolveComputesThreshold : Prop :=
  decode 0x300000000002 = .solve ∧
  ∀ s : State,
    (s.N ≠ 0 → exec .solve s = .next { s with
      THRESH := if refFound s 256 then (refArgmax s 256).2 else 0
      VARMAX := if refFound s 256 then (refArgmax s 256).1 else 0x0000000000000000
      STATUS := { s.STATUS with VALID := true, DEGEN := !refFound s 256 }
      response := some 0
      txIndex := s.txIndex + 1 }) ∧
    (s.N = 0 → ∃ t, exec .solve s = .next t ∧ t.STATUS.VALID = false ∧ t.STATUS.DEGEN = false ∧
      t.STATUS.EMPTY_ERR = true ∧
      t.STATUS.CAUSE = (if s.STATUS.CAUSE = 0 then 1 else s.STATUS.CAUSE) ∧
      t.THRESH = s.THRESH ∧ t.VARMAX = s.VARMAX ∧ t.H = s.H ∧ t.N = s.N)

/-- SOLVE writes only THRESH, VARMAX, VALID and DEGEN, and EMPTY_ERR and CAUSE when N = 0. It depends
only on H and N (with N = 0 the result registers stay), and again after operations that neither tally nor
clear it gives the same (R136). -/
def Obligations.SolveIsRepeatable : Prop :=
  (∀ s : State, ∃ t, exec .solve s = .next t ∧ t.H = s.H ∧ t.N = s.N ∧
    t.STATUS.OVF_ERR = s.STATUS.OVF_ERR ∧ t.STATUS.RANGE_ERR = s.STATUS.RANGE_ERR ∧
    t.STATUS.CMD_ERR = s.STATUS.CMD_ERR ∧ t.STATUS.ACC_ERR = s.STATUS.ACC_ERR ∧
    (s.N ≠ 0 → t.STATUS.EMPTY_ERR = s.STATUS.EMPTY_ERR ∧ t.STATUS.CAUSE = s.STATUS.CAUSE) ∧
    t.pending = s.pending) ∧
  (∀ s s' t t' : State, s.H = s'.H → s.N = s'.N → s.N ≠ 0 → exec .solve s = .next t →
    exec .solve s' = .next t' →
    t.THRESH = t'.THRESH ∧ t.VARMAX = t'.VARMAX ∧ t.STATUS.DEGEN = t'.STATUS.DEGEN) ∧
  (∀ (s t u v : State) (is : List Instr), exec .solve s = .next t →
    (∀ i ∈ is, i ≠ .clear ∧ offered i = []) → execAll is t = .next u → exec .solve u = .next v →
    v.THRESH = t.THRESH ∧ v.VARMAX = t.VARMAX ∧ v.STATUS.DEGEN = t.STATUS.DEGEN)

/-- A solve of a histogram of at least one sample is degenerate exactly when exactly one bin is not zero.
That bin's probability is then 1.0, and the running sum is 0.0 before it and 1.0 from it on; with two or
more bins not zero, the first of them is a candidate (R134). -/
def Obligations.DegenerateExactlyForOneBin : Prop :=
  ∀ s : State, Conserved s → s.N ≠ 0 →
    (∃ t, exec .solve s = .next t ∧
      (t.STATUS.DEGEN = true ↔ ∃ c, bin s c ≠ 0 ∧ ∀ v, v ≠ c → bin s v = 0)) ∧
    (∀ c, bin s c ≠ 0 → (∀ v, v ≠ c → bin s v = 0) → refP s c.toNat = f64One ∧
      ∀ i, i < 256 → refW s (i + 1) = if i < c.toNat then f64Zero else f64One) ∧
    (∀ f g, bin s f ≠ 0 → bin s g ≠ 0 → f ≠ g → (∀ v, v.toNat < f.toNat → bin s v = 0) →
      refCandidate s f.toNat = true)

/-- No candidate's variance exceeds VARMAX; where VARMAX is not zero, THRESH is a candidate that attains
it, and no lower candidate does (R127, R128). `ThresholdIsCandidate` says where VARMAX is not zero. -/
def Obligations.ThresholdMaximisesVariance : Prop :=
  ∀ s : State, s.N ≠ 0 → ∃ t, exec .solve s = .next t ∧
    (∀ j, j < 256 → refCandidate s j = true → f64Lt t.VARMAX (refVar s j) = false) ∧
    (t.VARMAX ≠ 0 → refCandidate s t.THRESH.toNat = true ∧ refVar s t.THRESH.toNat = t.VARMAX ∧
      ∀ j, j < t.THRESH.toNat → refCandidate s j = true → refVar s j ≠ t.VARMAX)

/-- After a solve that is not degenerate, THRESH is a candidate index, at least the first non-zero bin,
and VARMAX is its variance and positive; THRESH is always within [0, 255] (R135, and R129's "a positive
binary64 value"). The positive VARMAX is the premise under which `ThresholdMaximisesVariance` says that
THRESH is the first candidate of maximal variance. -/
def Obligations.ThresholdIsCandidate : Prop :=
  ∀ s : State, Conserved s → s.N ≠ 0 → ∃ t, exec .solve s = .next t ∧
    (threshWord t).toNat ≤ 255 ∧
    (t.STATUS.DEGEN = false → refCandidate s t.THRESH.toNat = true ∧
      (∃ f, bin s f ≠ 0 ∧ (∀ v, v.toNat < f.toNat → bin s v = 0) ∧ f.toNat ≤ t.THRESH.toNat) ∧
      refVar s t.THRESH.toNat = t.VARMAX ∧ f64Lt f64Zero t.VARMAX = true)

/-- Every value that a solve computes is finite: no operation of it makes a NaN or an infinity, and a
candidate's denominator is not zero (R132). The free NaN of entry 6 is thus never used. -/
def Obligations.SolveStaysFinite : Prop :=
  ∀ (s : State) (i : Nat), Conserved s → s.N ≠ 0 → i < 256 →
    isFinite (refP s i) ∧ isFinite (f64Mul (f64OfNat i) (refP s i)) ∧ isFinite (refMean s (i + 1)) ∧
    isFinite (refW s (i + 1)) ∧ isFinite (refMu s (i + 1)) ∧
    (refCandidate s i = true →
      isFinite (f64Mul (refMean s 256) (refW s (i + 1))) ∧ isFinite (refDeviation s i) ∧
      isFinite (f64Mul (refDeviation s i) (refDeviation s i)) ∧
      isFinite (f64Sub f64One (refW s (i + 1))) ∧ isFinite (refDenominator s i) ∧
      f64Lt f64Zero (refDenominator s i) = true ∧
      isFinite (refVar s i) ∧ f64Lt (refVar s i) f64Zero = false)

/-- RD.THRESH answers THRESH with bits 31:8 zero, whatever VALID holds, and changes no register (R137). -/
def Obligations.ThresholdRead : Prop :=
  decode 0x101400000000 = .rdThresh ∧
  ∀ s : State, ∃ w : Word,
    exec .rdThresh s = .next { s with response := some w, txIndex := s.txIndex + 1 } ∧
    w.extractLsb' 0 8 = s.THRESH ∧ w.extractLsb' 8 24 = 0

/-- RD.VARLO and RD.VARHI answer the two halves of VARMAX and change no register, and under the
invariant bit 31 of RD.VARHI's answer, the sign, is 0 (R138, R139, R25). -/
def Obligations.VarianceReads : Prop :=
  decode 0x101800000000 = .rdVarlo ∧ decode 0x101C00000000 = .rdVarhi ∧
  ∀ s : State, ∃ lo hi : Word,
    exec .rdVarlo s = .next { s with response := some lo, txIndex := s.txIndex + 1 } ∧
    exec .rdVarhi s = .next { s with response := some hi, txIndex := s.txIndex + 1 } ∧
    (hi ++ lo : BitVec (32 + 32)) = s.VARMAX ∧ (Inv s → hi.getLsbD 31 = false)

/-- The halves of VARMAX belong together when neither SOLVE nor CLEAR stands between the two reads
(R58, R196). -/
def Obligations.SplitVarianceReadsAgree : Prop :=
  ∀ (s t u v : State) (is : List Instr), exec .rdVarlo s = .next t →
    (∀ i ∈ is, i ≠ .solve ∧ i ≠ .clear) → execAll is t = .next u → exec .rdVarhi u = .next v →
    ∃ lo hi : Word, t.response = some lo ∧ v.response = some hi ∧
      (hi ++ lo : BitVec (32 + 32)) = s.VARMAX

/-! ### Control and status operations (42_control.md) -/

/-- NOP only advances the transaction index and gives its response (R150). -/
def Obligations.NopChangesNothing : Prop :=
  decode 0x300000000000 = .nop ∧
  ∀ s : State, exec .nop s = .next { s with response := some 0, txIndex := s.txIndex + 1 }

/-- CMD.BAD records CMD_ERR and changes nothing else; it is every command word but 0, 1 and 2 (R151). -/
def Obligations.ReservedCommandIsRefused : Prop :=
  (∀ d : Word, d ≠ 0 → d ≠ 1 → d ≠ 2 →
    decode (mkT true 2 0x000 d) = .cmdBad (d.extractLsb' 8 24) (d.extractLsb' 0 8)) ∧
  ∀ (rsv : BitVec 24) (op : Byte) (s : State), exec (.cmdBad rsv op) s = .next { s with
    STATUS := { s.STATUS with
      CMD_ERR := true
      CAUSE := if s.STATUS.CAUSE = 0 then 4 else s.STATUS.CAUSE }
    response := some 0
    txIndex := s.txIndex + 1 }

/-- RD.STATUS answers the status word, field by field at its bits, and changes no register (R152, R153). -/
def Obligations.StatusRead : Prop :=
  decode 0x100400000000 = .rdStatus ∧
  ∀ s : State, ∃ w : Word,
    exec .rdStatus s = .next { s with response := some w, txIndex := s.txIndex + 1 } ∧
    w.getLsbD 0 = s.STATUS.VALID ∧ w.getLsbD 1 = s.STATUS.DEGEN ∧
    w.getLsbD 2 = s.STATUS.EMPTY_ERR ∧ w.getLsbD 3 = s.STATUS.OVF_ERR ∧
    w.getLsbD 4 = s.STATUS.RANGE_ERR ∧ w.getLsbD 5 = s.STATUS.CMD_ERR ∧
    w.getLsbD 6 = s.STATUS.ACC_ERR ∧ w.getLsbD 7 = false ∧
    w.extractLsb' 8 4 = s.STATUS.CAUSE ∧ w.extractLsb' 12 20 = 0

/-- WR.STATUS clears the sticky bits that the mask names, and CAUSE once none is left; the mask's other
bits do nothing, and no other state changes. A STATUS write of another size or at a misaligned offset is
ACC.BAD (R154, R155). -/
def Obligations.AcknowledgeClearsErrors : Prop :=
  (∀ m : Word, decode (mkT true 2 0x004 m) = .wrStatus m) ∧
  (∀ (sz : BitVec 2) (off : Offset) (m : Word), sz ≠ 2 ∨ off.extractLsb' 0 2 ≠ 0 →
    decode (mkT true sz off m) = .accBad (.write sz off m)) ∧
  ∀ (m : Word) (s : State), ∃ t, exec (.wrStatus m) s = .next t ∧
    (∀ e, stickyBit e t.STATUS = (stickyBit e s.STATUS && !m.getLsbD (statusBit e))) ∧
    ((∀ e, stickyBit e t.STATUS = false) → t.STATUS.CAUSE = 0) ∧
    ((∃ e, stickyBit e t.STATUS = true) → t.STATUS.CAUSE = s.STATUS.CAUSE) ∧
    t.STATUS.VALID = s.STATUS.VALID ∧ t.STATUS.DEGEN = s.STATUS.DEGEN ∧
    t.H = s.H ∧ t.N = s.N ∧ t.THRESH = s.THRESH ∧ t.VARMAX = s.VARMAX ∧
    t.response = some 0 ∧ t.txIndex = s.txIndex + 1 ∧ t.pending = s.pending

/-- ACC.BAD is exactly the accesses that R156 lists; it records ACC_ERR, responds 0, and changes nothing
else (R156). -/
def Obligations.UnsupportedAccessIsRefused : Prop :=
  (∀ t : TWord, (∃ a, decode t = .accBad a) ↔
    (sizeField t ≠ 2 ∨ (offField t).extractLsb' 0 2 ≠ 0 ∨
      (0x020 ≤ (offField t).toNat ∧ (offField t).toNat ≤ 0x3FF) ∨
      (isWrite t = false ∧ (offField t = 0x000 ∨ offField t = 0x008 ∨ offField t = 0x00C)) ∨
      (isWrite t = true ∧ (offField t = 0x010 ∨ offField t = 0x014 ∨ offField t = 0x018 ∨
        offField t = 0x01C ∨ 0x400 ≤ (offField t).toNat)))) ∧
  ∀ (a : BadAccess) (s : State), exec (.accBad a) s = .next { s with
    STATUS := { s.STATUS with
      ACC_ERR := true
      CAUSE := if s.STATUS.CAUSE = 0 then 5 else s.STATUS.CAUSE }
    response := some 0
    txIndex := s.txIndex + 1 }

/-! ### Errors (60_exceptions.md) -/

/-- An operation that raises an error changes nothing but its sticky bit and, if no error was
outstanding, CAUSE, except that an EMPTY SOLVE clears VALID and DEGEN; one that raises none leaves the
error record, WR.STATUS apart (R172, R173). -/
def Obligations.ErrorsArePrecise : Prop :=
  (∀ (i : Instr) (s : State) (e : ErrorClass), raised i s = some e → ∃ t, exec i s = .next t ∧
    stickyBit e t.STATUS = true ∧
    (∀ e', e' ≠ e → stickyBit e' t.STATUS = stickyBit e' s.STATUS) ∧
    t.STATUS.CAUSE =
      (if s.STATUS.CAUSE = 0 then BitVec.ofNat 4 (statusBit e - 1) else s.STATUS.CAUSE) ∧
    t.STATUS.VALID = (if i = .solve then false else s.STATUS.VALID) ∧
    t.STATUS.DEGEN = (if i = .solve then false else s.STATUS.DEGEN) ∧
    t.H = s.H ∧ t.N = s.N ∧ t.THRESH = s.THRESH ∧ t.VARMAX = s.VARMAX ∧
    t.response = some 0 ∧ t.txIndex = s.txIndex + 1 ∧ t.pending = s.pending) ∧
  (∀ (i : Instr) (s : State), raised i s = none → (∀ m, i ≠ .wrStatus m) →
    ∃ t, exec i s = .next t ∧ (∀ e, stickyBit e t.STATUS = stickyBit e s.STATUS) ∧
      t.STATUS.CAUSE = s.STATUS.CAUSE)

/-- A sticky bit is set only by its own error class, and stays until WR.STATUS writes 1 to it or reset
occurs; and no error outstanding changes what any operation does: in states that differ only in the
errors, an operation does the same, RD.STATUS answering the errors apart (R29). -/
def Obligations.StickyErrorsPersistAndBlockNothing : Prop :=
  (∀ (i : Instr) (s t : State) (e : ErrorClass), exec i s = .next t →
    stickyBit e s.STATUS = true → stickyBit e t.STATUS = false →
    ∃ m, i = .wrStatus m ∧ m.getLsbD (statusBit e) = true) ∧
  (∀ (i : Instr) (s t : State) (e : ErrorClass), exec i s = .next t →
    stickyBit e s.STATUS = false → stickyBit e t.STATUS = true → raised i s = some e) ∧
  (∀ (s : State) (e : ErrorClass), stickyBit e (resetEvent s).STATUS = false) ∧
  (∀ (i : Instr) (a b : State), sameButErrors a b → ∃ t u, exec i a = .next t ∧ exec i b = .next u ∧
    sameButErrors t u ∧ (i ≠ .rdStatus → t.response = u.response) ∧
    (∀ e, raised i a = some e → stickyBit e t.STATUS = true ∧ stickyBit e u.STATUS = true))

/-- Only CLEAR and the tallies write H and N, and only SOLVE and CLEAR write THRESH and VARMAX (R33, R21,
R22, R24, R25). -/
def Obligations.RegistersHaveOnlyTheirWriters : Prop :=
  ∀ (i : Instr) (s : State), ∃ t, exec i s = .next t ∧
    (t.H ≠ s.H ∨ t.N ≠ s.N → i = .clear ∨ offered i ≠ []) ∧
    (t.THRESH ≠ s.THRESH ∨ t.VARMAX ≠ s.VARMAX → i = .clear ∨ i = .solve) ∧
    (t.STATUS.VALID ≠ s.STATUS.VALID ∨ t.STATUS.DEGEN ≠ s.STATUS.DEGEN →
      i = .clear ∨ i = .solve ∨ offered i ≠ [])

/-- A supported read changes no register, and repeated it answers the same; an ACC.BAD read records its
error (R59). -/
def Obligations.SupportedReadsChangeNothing : Prop :=
  ∀ (t : TWord) (s : State), isWrite t = false →
    ((∀ a, decode t ≠ .accBad a) → ∃ u v, exec (decode t) s = .next u ∧ sameRegisters u s ∧
      exec (decode t) u = .next v ∧ v.response = u.response) ∧
    ((∃ a, decode t = .accBad a) → ∃ u, exec (decode t) s = .next u ∧ u.STATUS.ACC_ERR = true)

/-! ### Invariants (10_state.md) -/

/-- Every step, from every state that has the invariant, keeps it (R23, R26, R27, R28, R30, R139). -/
def Obligations.StepKeepsInvariant : Prop :=
  ∀ s t : State, Inv s → step s = .next t → Inv t

/-- The reset state has the invariant. -/
def Obligations.ResetHasInvariant : Prop := Inv State.reset

/-- In every state reached from reset under any port events, N is the sum of the bins, and every bin is
at most N (R23). The queue that gives the events is the model's choice (entry 1). -/
def Obligations.ReachableHistogramIsConserved : Prop :=
  ∀ (es : List PortEvent) (n : Nat), ∃ s, reaches es n s ∧
    s.N.toNat = binSum s.H ∧ ∀ v, (bin s v).toNat ≤ s.N.toNat ∧ s.N.toNat ≤ 0xFFFFFFFF

/-- In every state reached from reset under any port events: CAUSE is 0 exactly when no sticky bit is
set, and at most 5; DEGEN implies VALID, THRESH 0 and VARMAX 0 (R26, R28, R30). The queue that gives the
events is the model's choice (entry 1). -/
def Obligations.ReachableStatusIsSound : Prop :=
  ∀ (es : List PortEvent) (n : Nat), ∃ s, reaches es n s ∧
    (s.STATUS.CAUSE = 0 ↔ ∀ e, stickyBit e s.STATUS = false) ∧ s.STATUS.CAUSE.toNat ≤ 5 ∧
    (s.STATUS.DEGEN = true → s.STATUS.VALID = true ∧ s.THRESH = 0 ∧ s.VARMAX = 0)

/-- VALID means that THRESH and VARMAX are the result of a solve of the current histogram: under the
invariant a solve gives them again. What changes H or N clears VALID, as do CLEAR, an accepted tally and
an EMPTY SOLVE; every other operation leaves VALID as it is (R27). -/
def Obligations.ValidMeansCurrentResult : Prop :=
  (∀ s : State, Inv s → s.STATUS.VALID = true → ∃ t, exec .solve s = .next t ∧
    t.THRESH = s.THRESH ∧ t.VARMAX = s.VARMAX ∧ t.STATUS.DEGEN = s.STATUS.DEGEN ∧
    t.STATUS.VALID = true) ∧
  (∀ s : State, ∃ t, exec .solve s = .next t ∧ t.H = s.H ∧ t.N = s.N) ∧
  (∀ (i : Instr) (s t : State), exec i s = .next t →
    t.H ≠ s.H ∨ t.N ≠ s.N ∨ i = .clear ∨ (offered i ≠ [] ∧ raised i s = none) ∨
      (i = .solve ∧ raised i s ≠ none) → t.STATUS.VALID = false) ∧
  (∀ (i : Instr) (s t : State), exec i s = .next t → i ≠ .clear → i ≠ .solve →
    offered i = [] ∨ raised i s ≠ none → t.STATUS.VALID = s.STATUS.VALID)

/-! ### binary64 (00_scope.md R11) -/

/-- `f64_of_nat` is exact below 2^53, and the literals are 0 and 1 (R11). -/
def Obligations.IntegerConversionIsExact : Prop :=
  (∀ k : Nat, k < 2 ^ 53 → finiteValue (f64OfNat k) = some (2 ^ 1074 * (k : Int))) ∧
  finiteValue f64Zero = some 0 ∧ finiteValue f64One = some (2 ^ 1074)

/-- Addition, subtraction, multiplication and division of finite numbers are the exact results rounded
once, to nearest with ties to even, and an infinity of their sign where they overflow (R11). The IEEE 754
definitions, the overflow rule among them, are PRESUMED (entry 6). Signs, infinities and NaNs are in
`ArithmeticSignsAndSpecialOperands`. -/
def Obligations.ArithmeticRoundsToNearestEven : Prop :=
  ∀ (a b : F64) (va vb : Int), finiteValue a = some va → finiteValue b = some vb →
    RoundsToNearest (f64Add a b) (va + vb) 1 ∧
    RoundsToNearest (f64Sub a b) (va - vb) 1 ∧
    RoundsToNearest (f64Mul a b) (va * vb) (2 ^ 1074) ∧
    (vb ≠ 0 → RoundsToNearest (f64Div a b) (2 ^ 1074 * (va * vb.sign)) vb.natAbs)

/-- The ordered comparison of finite numbers is that of their values, and it is false when an operand is
a NaN (R11). -/
def Obligations.ComparisonIsOrdered : Prop :=
  (∀ (a b : F64) (va vb : Int), finiteValue a = some va → finiteValue b = some vb →
    (f64Lt a b = true ↔ va < vb)) ∧
  (∀ a b : F64, unpack a = .nan ∨ unpack b = .nan → f64Lt a b = false)

/-- What `ArithmeticRoundsToNearestEven` leaves out: the sign of a result, of a zero too, and the results
on NaN and infinite operands and of a division by zero; and the comparison with an infinity (R11). The
IEEE 754 definitions are PRESUMED, and which NaN a result is stays free (entry 6). -/
def Obligations.ArithmeticSignsAndSpecialOperands : Prop :=
  (∀ a b : F64, unpack a = .nan ∨ unpack b = .nan → unpack (f64Add a b) = .nan ∧
    unpack (f64Sub a b) = .nan ∧ unpack (f64Mul a b) = .nan ∧ unpack (f64Div a b) = .nan) ∧
  (∀ (a b : F64) (va vb : Int), finiteValue a = some va → finiteValue b = some vb →
    (va + vb ≠ 0 → (f64Add a b).getLsbD 63 = decide (va + vb < 0)) ∧
    (va + vb = 0 → f64Add a b =
      if a.getLsbD 63 && b.getLsbD 63 then 0x8000000000000000 else 0x0000000000000000) ∧
    (va - vb ≠ 0 → (f64Sub a b).getLsbD 63 = decide (va - vb < 0)) ∧
    (va - vb = 0 → f64Sub a b =
      if a.getLsbD 63 && !b.getLsbD 63 then 0x8000000000000000 else 0x0000000000000000) ∧
    (f64Mul a b).getLsbD 63 = (a.getLsbD 63 ^^ b.getLsbD 63) ∧
    (vb ≠ 0 → (f64Div a b).getLsbD 63 = (a.getLsbD 63 ^^ b.getLsbD 63)) ∧
    (vb = 0 → va ≠ 0 → unpack (f64Div a b) = .inf (a.getLsbD 63 ^^ b.getLsbD 63)) ∧
    (vb = 0 → va = 0 → unpack (f64Div a b) = .nan)) ∧
  (∀ (a b : F64) (n : Bool) (vb : Int), unpack a = .inf n → finiteValue b = some vb →
    unpack (f64Add a b) = .inf n ∧ unpack (f64Add b a) = .inf n ∧
    unpack (f64Sub a b) = .inf n ∧ unpack (f64Sub b a) = .inf (!n) ∧
    (vb ≠ 0 → unpack (f64Mul a b) = .inf (n ^^ b.getLsbD 63) ∧
      unpack (f64Mul b a) = .inf (n ^^ b.getLsbD 63)) ∧
    (vb = 0 → unpack (f64Mul a b) = .nan ∧ unpack (f64Mul b a) = .nan) ∧
    unpack (f64Div a b) = .inf (n ^^ b.getLsbD 63) ∧
    f64Div b a = (if n ^^ b.getLsbD 63 then 0x8000000000000000 else 0x0000000000000000) ∧
    f64Lt a b = n ∧ f64Lt b a = !n) ∧
  (∀ (a b : F64) (n m : Bool), unpack a = .inf n → unpack b = .inf m →
    unpack (f64Add a b) = (if n = m then .inf n else .nan) ∧
    unpack (f64Sub a b) = (if n = m then .nan else .inf n) ∧
    unpack (f64Mul a b) = .inf (n ^^ m) ∧ unpack (f64Div a b) = .nan ∧
    f64Lt a b = (n && !m))
end

