-- ==== Sys2Proof/Laws/Decode.lean ====
section
/-! SUPPORT. The transaction word as its four fields (30_encoding.md R70): building, reading, masking, and
which words a row of the table matches. -/

namespace Sys2Proof

@[simp] theorem isWrite_mkT (w : Bool) (sz : BitVec 2) (off : Offset) (data : Word) :
    isWrite (mkT w sz off data) = w := by
  simp only [isWrite, mkT]
  rw [BitVec.getLsbD_append, BitVec.getLsbD_append, BitVec.getLsbD_append]
  cases w <;> rfl

@[simp] theorem sizeField_mkT (w : Bool) (sz : BitVec 2) (off : Offset) (data : Word) :
    sizeField (mkT w sz off data) = sz := by
  apply BitVec.eq_of_getLsbD_eq
  intro i hi
  simp only [sizeField, mkT, BitVec.getLsbD_extractLsb', BitVec.getLsbD_append]
  have h1 : ¬ (43 + i < 32) := by omega
  have h2 : ¬ (43 + i - 32 < 11) := by omega
  have h3 : 43 + i - 32 - 11 = i := by omega
  simp [h1, h2, h3, hi]

@[simp] theorem offField_mkT (w : Bool) (sz : BitVec 2) (off : Offset) (data : Word) :
    offField (mkT w sz off data) = off := by
  apply BitVec.eq_of_getLsbD_eq
  intro i hi
  simp only [offField, mkT, BitVec.getLsbD_extractLsb', BitVec.getLsbD_append]
  have h1 : ¬ (32 + i < 32) := by omega
  have h2 : 32 + i - 32 = i := by omega
  simp [h1, h2, hi]

@[simp] theorem dataField_mkT (w : Bool) (sz : BitVec 2) (off : Offset) (data : Word) :
    dataField (mkT w sz off data) = data := by
  apply BitVec.eq_of_getLsbD_eq
  intro i hi
  simp only [dataField, mkT, BitVec.getLsbD_extractLsb', BitVec.getLsbD_append]
  simp [hi]

/-- A transaction word is its four fields. -/
theorem mkT_fields (t : TWord) : mkT (isWrite t) (sizeField t) (offField t) (dataField t) = t := by
  apply BitVec.eq_of_getLsbD_eq
  intro i hi
  simp only [mkT, isWrite, sizeField, offField, dataField, BitVec.getLsbD_append,
    BitVec.getLsbD_extractLsb', BitVec.getLsbD_ofBool]
  split
  · simp; omega
  · split
    · have e : 32 + (i - 32) = i := by omega
      have h : i - 32 < 11 := by omega
      simp [e, h]
    · split
      · have e : 43 + (i - 32 - 11) = i := by omega
        have h : i - 32 - 11 < 2 := by omega
        simp [e, h]
      · have e : i = 45 := by omega
        simp [e]

/-- Two transaction words are equal exactly when their fields are. -/
theorem mkT_inj {w w' : Bool} {sz sz' : BitVec 2} {off off' : Offset} {data data' : Word} :
    mkT w sz off data = mkT w' sz' off' data' ↔ w = w' ∧ sz = sz' ∧ off = off' ∧ data = data' := by
  constructor
  · intro h
    exact ⟨by simpa using congrArg isWrite h, by simpa using congrArg sizeField h,
      by simpa using congrArg offField h, by simpa using congrArg dataField h⟩
  · rintro ⟨rfl, rfl, rfl, rfl⟩; rfl

/-- Masking acts field by field. -/
theorem mkT_and (w w' : Bool) (sz sz' : BitVec 2) (off off' : Offset) (data data' : Word) :
    mkT w sz off data &&& mkT w' sz' off' data' =
      mkT (w && w') (sz &&& sz') (off &&& off') (data &&& data') := by
  apply BitVec.eq_of_getLsbD_eq
  intro i _
  simp only [mkT, BitVec.getLsbD_and, BitVec.getLsbD_append, BitVec.getLsbD_ofBool]
  split
  · rfl
  · split
    · rfl
    · split
      · rfl
      · cases w <;> cases w' <;> simp

/-- The mask of a row that fixes W, SZ and OFF and no bit of DATA (30_encoding.md R78). -/
theorem mask_access : (0x3FFF00000000 : TWord) = mkT true 3 0x7FF 0 := by decide

/-- The mask of NOP, CLEAR and SOLVE, which fixes every bit. -/
theorem mask_command : (0x3FFFFFFFFFFF : TWord) = mkT true 3 0x7FF 0xFFFFFFFF := by decide

/-- The mask of TALLY1, which fixes DATA[31:8] too. -/
theorem mask_sample : (0x3FFFFFFFFF00 : TWord) = mkT true 3 0x7FF 0xFFFFFF00 := by decide

/-- The mask of RD.BIN, which leaves OFF[9:2] free. -/
theorem mask_bin : (0x3C0300000000 : TWord) = mkT true 3 0x403 0 := by decide

theorem size_and_three (sz : BitVec 2) : sz &&& 3 = sz := by
  have : (3 : BitVec 2) = BitVec.allOnes 2 := rfl
  rw [this, BitVec.and_allOnes]

theorem off_and_ones (off : Offset) : off &&& 0x7FF = off := by
  have : (0x7FF : Offset) = BitVec.allOnes 11 := rfl
  rw [this, BitVec.and_allOnes]

theorem data_and_ones (data : Word) : data &&& 0xFFFFFFFF = data := by
  have : (0xFFFFFFFF : Word) = BitVec.allOnes 32 := rfl
  rw [this, BitVec.and_allOnes]

theorem data_and_zero (data : Word) : data &&& 0 = 0 := BitVec.and_zero

/-- A row that fixes W, SZ and OFF alone. -/
theorem and_mask_access (w : Bool) (sz : BitVec 2) (off : Offset) (data : Word) :
    mkT w sz off data &&& 0x3FFF00000000 = mkT w sz off 0 := by
  rw [mask_access, mkT_and, size_and_three, off_and_ones, data_and_zero, Bool.and_true]

/-- A row that fixes every bit. -/
theorem and_mask_command (w : Bool) (sz : BitVec 2) (off : Offset) (data : Word) :
    mkT w sz off data &&& 0x3FFFFFFFFFFF = mkT w sz off data := by
  rw [mask_command, mkT_and, size_and_three, off_and_ones, data_and_ones, Bool.and_true]

/-- The row of TALLY1. -/
theorem and_mask_sample (w : Bool) (sz : BitVec 2) (off : Offset) (data : Word) :
    mkT w sz off data &&& 0x3FFFFFFFFF00 = mkT w sz off (data &&& 0xFFFFFF00) := by
  rw [mask_sample, mkT_and, size_and_three, off_and_ones, Bool.and_true]

/-- The row of RD.BIN. -/
theorem and_mask_bin (w : Bool) (sz : BitVec 2) (off : Offset) (data : Word) :
    mkT w sz off data &&& 0x3C0300000000 = mkT w sz (off &&& 0x403) 0 := by
  rw [mask_bin, mkT_and, size_and_three, data_and_zero, Bool.and_true]

/-- An 8-bit sample has no bit above bit 7. -/
theorem sample_and_high (x : Byte) : x.setWidth 32 &&& 0xFFFFFF00 = (0 : Word) := by
  revert x; decide

/-- The offset of a bin has bit 10 set and bits 1:0 clear, whatever the bin (30_encoding.md R76). -/
theorem binOffset_and (v : Byte) : binOffset v &&& 0x403 = 0x400 := by
  revert v; decide

/-- Decoding, on the fields: the rows in order, each as its condition on W, SZ, OFF and DATA
(30_encoding.md R71, R78). -/
theorem decode_mkT (w : Bool) (sz : BitVec 2) (off : Offset) (d : Word) : decode (mkT w sz off d) =
    if w = true ∧ sz = 2 ∧ off = 0x000 ∧ d = 0 then .nop
    else if w = true ∧ sz = 2 ∧ off = 0x000 ∧ d = 1 then .clear
    else if w = true ∧ sz = 2 ∧ off = 0x000 ∧ d = 2 then .solve
    else if w = true ∧ sz = 2 ∧ off = 0x000 then .cmdBad (d.extractLsb' 8 24) (d.extractLsb' 0 8)
    else if w = false ∧ sz = 2 ∧ off = 0x004 then .rdStatus
    else if w = true ∧ sz = 2 ∧ off = 0x004 then .wrStatus d
    else if w = true ∧ sz = 2 ∧ off = 0x008 ∧ d &&& 0xFFFFFF00 = 0 then .tally1 (d.extractLsb' 0 8)
    else if w = true ∧ sz = 2 ∧ off = 0x008 then .tally1Bad d
    else if w = true ∧ sz = 2 ∧ off = 0x00C then
      .tally4 (d.extractLsb' 0 8) (d.extractLsb' 8 8) (d.extractLsb' 16 8) (d.extractLsb' 24 8)
    else if w = false ∧ sz = 2 ∧ off = 0x010 then .rdCount
    else if w = false ∧ sz = 2 ∧ off = 0x014 then .rdThresh
    else if w = false ∧ sz = 2 ∧ off = 0x018 then .rdVarlo
    else if w = false ∧ sz = 2 ∧ off = 0x01C then .rdVarhi
    else if w = false ∧ sz = 2 ∧ off &&& 0x403 = 0x400 then .rdBin (off.extractLsb' 2 8)
    else .accBad (if w then .write sz off d else .read sz off) := by
  have c0 : (0x300000000000 : TWord) = mkT true 2 0x000 0 := by decide
  have c1 : (0x300000000001 : TWord) = mkT true 2 0x000 1 := by decide
  have c2 : (0x300000000002 : TWord) = mkT true 2 0x000 2 := by decide
  have c4 : (0x100400000000 : TWord) = mkT false 2 0x004 0 := by decide
  have c5 : (0x300400000000 : TWord) = mkT true 2 0x004 0 := by decide
  have c6 : (0x300800000000 : TWord) = mkT true 2 0x008 0 := by decide
  have c7 : (0x300C00000000 : TWord) = mkT true 2 0x00C 0 := by decide
  have c8 : (0x101000000000 : TWord) = mkT false 2 0x010 0 := by decide
  have c9 : (0x101400000000 : TWord) = mkT false 2 0x014 0 := by decide
  have c10 : (0x101800000000 : TWord) = mkT false 2 0x018 0 := by decide
  have c11 : (0x101C00000000 : TWord) = mkT false 2 0x01C 0 := by decide
  have c12 : (0x140000000000 : TWord) = mkT false 2 0x400 0 := by decide
  have z : ∀ x : TWord, x &&& 0 = 0 := fun x => BitVec.and_zero
  simp only [decode, opcodeTable, firstMatch, and_mask_access, and_mask_command, and_mask_sample,
    and_mask_bin]
  rw [c0, c1, c2, c4, c5, c6, c7, c8, c9, c10, c11, c12]
  simp only [mkT_inj, readCommand, readLanes, readAccess, dataField_mkT, offField_mkT,
    sizeField_mkT, isWrite_mkT, and_true, z, if_true]

/-- A word has no bit above bit 7 exactly when it is a sample value (30_encoding.md R74). -/
theorem and_high_eq_zero (d : Word) : d &&& 0xFFFFFF00 = 0 ↔ d.toNat ≤ 255 := by
  have lo : ∀ i, i < 8 → (0xFFFFFF00#32).getLsbD i = false := by decide
  have hi : ∀ i, i < 32 → ¬ i < 8 → (0xFFFFFF00#32).getLsbD i = true := by decide
  constructor
  · intro h
    have e : d = (d.extractLsb' 0 8).setWidth 32 := by
      apply BitVec.eq_of_getLsbD_eq
      intro i hlt
      by_cases h8 : i < 8
      · simp [h8, hlt]
      · have hb := congrArg (fun x => BitVec.getLsbD x i) h
        have hz : BitVec.getLsbD (0 : Word) i = false := BitVec.getLsbD_zero
        rw [BitVec.getLsbD_and, hz] at hb
        have : d.getLsbD i = false := by
          have := hi i hlt h8
          revert hb this
          cases d.getLsbD i <;> intro hb this <;> simp_all
        simp [h8, this]
    rw [e]
    simp
    omega
  · intro h
    apply BitVec.eq_of_getLsbD_eq
    intro i _
    by_cases h8 : i < 8
    · simp [lo i h8]
    · have hb : d.getLsbD i = false := by
        rw [← BitVec.testBit_toNat]
        apply Nat.testBit_lt_two_pow
        calc d.toNat < 2 ^ 8 := by omega
          _ ≤ 2 ^ i := Nat.pow_le_pow_right (by omega) (by omega)
      simp [hb]

end Sys2Proof
end

