-- ==== Sys2Proof/Laws/State.lean ====
section
/-! SUPPORT. One lemma per field per update of State and of Status, each true by rfl. -/

namespace Sys2Proof.Machine

/-! ### Bins -/

@[simp] theorem setBin_H (v : Byte) (x : Word) (s : State) : (setBin v x s).H = s.H.set v.toNat x v.isLt := rfl
@[simp] theorem setBin_N (v : Byte) (x : Word) (s : State) : (setBin v x s).N = s.N := rfl
@[simp] theorem setBin_THRESH (v : Byte) (x : Word) (s : State) : (setBin v x s).THRESH = s.THRESH := rfl
@[simp] theorem setBin_VARMAX (v : Byte) (x : Word) (s : State) : (setBin v x s).VARMAX = s.VARMAX := rfl
@[simp] theorem setBin_STATUS (v : Byte) (x : Word) (s : State) : (setBin v x s).STATUS = s.STATUS := rfl
@[simp] theorem setBin_response (v : Byte) (x : Word) (s : State) : (setBin v x s).response = s.response := rfl
@[simp] theorem setBin_txIndex (v : Byte) (x : Word) (s : State) : (setBin v x s).txIndex = s.txIndex := rfl
@[simp] theorem setBin_pending (v : Byte) (x : Word) (s : State) : (setBin v x s).pending = s.pending := rfl

/-! ### Errors -/

@[simp] theorem raiseError_H (e : ErrorClass) (s : State) : (raiseError e s).H = s.H := rfl
@[simp] theorem raiseError_N (e : ErrorClass) (s : State) : (raiseError e s).N = s.N := rfl
@[simp] theorem raiseError_THRESH (e : ErrorClass) (s : State) : (raiseError e s).THRESH = s.THRESH := rfl
@[simp] theorem raiseError_VARMAX (e : ErrorClass) (s : State) : (raiseError e s).VARMAX = s.VARMAX := rfl
@[simp] theorem raiseError_STATUS (e : ErrorClass) (s : State) : (raiseError e s).STATUS = recordError e s.STATUS := rfl
@[simp] theorem raiseError_response (e : ErrorClass) (s : State) : (raiseError e s).response = s.response := rfl
@[simp] theorem raiseError_txIndex (e : ErrorClass) (s : State) : (raiseError e s).txIndex = s.txIndex := rfl
@[simp] theorem raiseError_pending (e : ErrorClass) (s : State) : (raiseError e s).pending = s.pending := rfl

/-! ### Acknowledgement -/

@[simp] theorem acknowledge_H (m : Word) (s : State) : (acknowledge m s).H = s.H := rfl
@[simp] theorem acknowledge_N (m : Word) (s : State) : (acknowledge m s).N = s.N := rfl
@[simp] theorem acknowledge_THRESH (m : Word) (s : State) : (acknowledge m s).THRESH = s.THRESH := rfl
@[simp] theorem acknowledge_VARMAX (m : Word) (s : State) : (acknowledge m s).VARMAX = s.VARMAX := rfl
@[simp] theorem acknowledge_STATUS (m : Word) (s : State) : (acknowledge m s).STATUS = clearSticky m s.STATUS := rfl
@[simp] theorem acknowledge_response (m : Word) (s : State) : (acknowledge m s).response = s.response := rfl
@[simp] theorem acknowledge_txIndex (m : Word) (s : State) : (acknowledge m s).txIndex = s.txIndex := rfl
@[simp] theorem acknowledge_pending (m : Word) (s : State) : (acknowledge m s).pending = s.pending := rfl

/-! ### A stale result -/

@[simp] theorem invalidate_H (s : State) : (invalidate s).H = s.H := rfl
@[simp] theorem invalidate_N (s : State) : (invalidate s).N = s.N := rfl
@[simp] theorem invalidate_THRESH (s : State) : (invalidate s).THRESH = s.THRESH := rfl
@[simp] theorem invalidate_VARMAX (s : State) : (invalidate s).VARMAX = s.VARMAX := rfl
@[simp] theorem invalidate_STATUS (s : State) : (invalidate s).STATUS = staleResult s.STATUS := rfl
@[simp] theorem invalidate_response (s : State) : (invalidate s).response = s.response := rfl
@[simp] theorem invalidate_txIndex (s : State) : (invalidate s).txIndex = s.txIndex := rfl
@[simp] theorem invalidate_pending (s : State) : (invalidate s).pending = s.pending := rfl

/-! ### One tally -/

@[simp] theorem tally_H (x : Byte) (s : State) : (tally x s).H = s.H.set x.toNat (bin s x + 1) x.isLt := rfl
@[simp] theorem tally_N (x : Byte) (s : State) : (tally x s).N = s.N + 1 := rfl
@[simp] theorem tally_THRESH (x : Byte) (s : State) : (tally x s).THRESH = s.THRESH := rfl
@[simp] theorem tally_VARMAX (x : Byte) (s : State) : (tally x s).VARMAX = s.VARMAX := rfl
@[simp] theorem tally_STATUS (x : Byte) (s : State) : (tally x s).STATUS = s.STATUS := rfl
@[simp] theorem tally_response (x : Byte) (s : State) : (tally x s).response = s.response := rfl
@[simp] theorem tally_txIndex (x : Byte) (s : State) : (tally x s).txIndex = s.txIndex := rfl
@[simp] theorem tally_pending (x : Byte) (s : State) : (tally x s).pending = s.pending := rfl

/-! ### CLEAR -/

@[simp] theorem clearAll_H (s : State) : (clearAll s).H = Vector.replicate 256 0#32 := rfl
@[simp] theorem clearAll_N (s : State) : (clearAll s).N = 0#32 := rfl
@[simp] theorem clearAll_THRESH (s : State) : (clearAll s).THRESH = 0#8 := rfl
@[simp] theorem clearAll_VARMAX (s : State) : (clearAll s).VARMAX = 0#64 := rfl
@[simp] theorem clearAll_STATUS (s : State) : (clearAll s).STATUS = staleResult s.STATUS := rfl
@[simp] theorem clearAll_response (s : State) : (clearAll s).response = s.response := rfl
@[simp] theorem clearAll_txIndex (s : State) : (clearAll s).txIndex = s.txIndex := rfl
@[simp] theorem clearAll_pending (s : State) : (clearAll s).pending = s.pending := rfl

/-! ### Pending events -/

@[simp] theorem withPending_H (es : List PortEvent) (s : State) : (withPending es s).H = s.H := rfl
@[simp] theorem withPending_N (es : List PortEvent) (s : State) : (withPending es s).N = s.N := rfl
@[simp] theorem withPending_THRESH (es : List PortEvent) (s : State) : (withPending es s).THRESH = s.THRESH := rfl
@[simp] theorem withPending_VARMAX (es : List PortEvent) (s : State) : (withPending es s).VARMAX = s.VARMAX := rfl
@[simp] theorem withPending_STATUS (es : List PortEvent) (s : State) : (withPending es s).STATUS = s.STATUS := rfl
@[simp] theorem withPending_response (es : List PortEvent) (s : State) : (withPending es s).response = s.response := rfl
@[simp] theorem withPending_txIndex (es : List PortEvent) (s : State) : (withPending es s).txIndex = s.txIndex := rfl
@[simp] theorem withPending_pending (es : List PortEvent) (s : State) : (withPending es s).pending = es := rfl

/-! ### A cycle without an event -/

@[simp] theorem idle_H (s : State) : (idle s).H = s.H := rfl
@[simp] theorem idle_N (s : State) : (idle s).N = s.N := rfl
@[simp] theorem idle_THRESH (s : State) : (idle s).THRESH = s.THRESH := rfl
@[simp] theorem idle_VARMAX (s : State) : (idle s).VARMAX = s.VARMAX := rfl
@[simp] theorem idle_STATUS (s : State) : (idle s).STATUS = s.STATUS := rfl
@[simp] theorem idle_response (s : State) : (idle s).response = none := rfl
@[simp] theorem idle_txIndex (s : State) : (idle s).txIndex = s.txIndex := rfl
@[simp] theorem idle_pending (s : State) : (idle s).pending = s.pending := rfl

/-! ### Reset -/

@[simp] theorem resetEvent_H (s : State) : (resetEvent s).H = Vector.replicate 256 0#32 := rfl
@[simp] theorem resetEvent_N (s : State) : (resetEvent s).N = 0#32 := rfl
@[simp] theorem resetEvent_THRESH (s : State) : (resetEvent s).THRESH = 0#8 := rfl
@[simp] theorem resetEvent_VARMAX (s : State) : (resetEvent s).VARMAX = 0#64 := rfl
@[simp] theorem resetEvent_STATUS (s : State) : (resetEvent s).STATUS = Status.reset := rfl
@[simp] theorem resetEvent_response (s : State) : (resetEvent s).response = none := rfl
@[simp] theorem resetEvent_txIndex (s : State) : (resetEvent s).txIndex = s.txIndex := rfl
@[simp] theorem resetEvent_pending (s : State) : (resetEvent s).pending = s.pending := rfl

/-! ### Reset during a transaction -/

@[simp] theorem resetOutstanding_H (s : State) : (resetOutstanding s).H = Vector.replicate 256 0#32 := rfl
@[simp] theorem resetOutstanding_N (s : State) : (resetOutstanding s).N = 0#32 := rfl
@[simp] theorem resetOutstanding_THRESH (s : State) : (resetOutstanding s).THRESH = 0#8 := rfl
@[simp] theorem resetOutstanding_VARMAX (s : State) : (resetOutstanding s).VARMAX = 0#64 := rfl
@[simp] theorem resetOutstanding_STATUS (s : State) : (resetOutstanding s).STATUS = Status.reset := rfl
@[simp] theorem resetOutstanding_response (s : State) : (resetOutstanding s).response = none := rfl
@[simp] theorem resetOutstanding_txIndex (s : State) : (resetOutstanding s).txIndex = s.txIndex + 1 := rfl
@[simp] theorem resetOutstanding_pending (s : State) : (resetOutstanding s).pending = s.pending := rfl

/-! ### The state after reset -/

@[simp] theorem reset_H : State.reset.H = Vector.replicate 256 0#32 := rfl
@[simp] theorem reset_N : State.reset.N = 0#32 := rfl
@[simp] theorem reset_THRESH : State.reset.THRESH = 0#8 := rfl
@[simp] theorem reset_VARMAX : State.reset.VARMAX = 0#64 := rfl
@[simp] theorem reset_STATUS : State.reset.STATUS = Status.reset := rfl
@[simp] theorem reset_response : State.reset.response = none := rfl
@[simp] theorem reset_txIndex : State.reset.txIndex = 0 := rfl
@[simp] theorem reset_pending : State.reset.pending = [] := rfl

/-! ### STATUS -/

@[simp] theorem statusReset_VALID : Status.reset.VALID = false := rfl
@[simp] theorem statusReset_DEGEN : Status.reset.DEGEN = false := rfl
@[simp] theorem statusReset_EMPTY_ERR : Status.reset.EMPTY_ERR = false := rfl
@[simp] theorem statusReset_OVF_ERR : Status.reset.OVF_ERR = false := rfl
@[simp] theorem statusReset_RANGE_ERR : Status.reset.RANGE_ERR = false := rfl
@[simp] theorem statusReset_CMD_ERR : Status.reset.CMD_ERR = false := rfl
@[simp] theorem statusReset_ACC_ERR : Status.reset.ACC_ERR = false := rfl
@[simp] theorem statusReset_CAUSE : Status.reset.CAUSE = 0#4 := rfl
@[simp] theorem staleResult_VALID (st : Status) : (staleResult st).VALID = false := rfl
@[simp] theorem staleResult_DEGEN (st : Status) : (staleResult st).DEGEN = false := rfl
@[simp] theorem staleResult_EMPTY_ERR (st : Status) : (staleResult st).EMPTY_ERR = st.EMPTY_ERR := rfl
@[simp] theorem staleResult_OVF_ERR (st : Status) : (staleResult st).OVF_ERR = st.OVF_ERR := rfl
@[simp] theorem staleResult_RANGE_ERR (st : Status) : (staleResult st).RANGE_ERR = st.RANGE_ERR := rfl
@[simp] theorem staleResult_CMD_ERR (st : Status) : (staleResult st).CMD_ERR = st.CMD_ERR := rfl
@[simp] theorem staleResult_ACC_ERR (st : Status) : (staleResult st).ACC_ERR = st.ACC_ERR := rfl
@[simp] theorem staleResult_CAUSE (st : Status) : (staleResult st).CAUSE = st.CAUSE := rfl
@[simp] theorem currentResult_VALID (d : Bool) (st : Status) : (currentResult d st).VALID = true := rfl
@[simp] theorem currentResult_DEGEN (d : Bool) (st : Status) : (currentResult d st).DEGEN = d := rfl
@[simp] theorem currentResult_EMPTY_ERR (d : Bool) (st : Status) : (currentResult d st).EMPTY_ERR = st.EMPTY_ERR := rfl
@[simp] theorem currentResult_OVF_ERR (d : Bool) (st : Status) : (currentResult d st).OVF_ERR = st.OVF_ERR := rfl
@[simp] theorem currentResult_RANGE_ERR (d : Bool) (st : Status) : (currentResult d st).RANGE_ERR = st.RANGE_ERR := rfl
@[simp] theorem currentResult_CMD_ERR (d : Bool) (st : Status) : (currentResult d st).CMD_ERR = st.CMD_ERR := rfl
@[simp] theorem currentResult_ACC_ERR (d : Bool) (st : Status) : (currentResult d st).ACC_ERR = st.ACC_ERR := rfl
@[simp] theorem currentResult_CAUSE (d : Bool) (st : Status) : (currentResult d st).CAUSE = st.CAUSE := rfl
@[simp] theorem clearSticky_VALID (m : Word) (st : Status) : (clearSticky m st).VALID = st.VALID := rfl
@[simp] theorem clearSticky_DEGEN (m : Word) (st : Status) : (clearSticky m st).DEGEN = st.DEGEN := rfl
@[simp] theorem clearSticky_EMPTY_ERR (m : Word) (st : Status) : (clearSticky m st).EMPTY_ERR = (st.EMPTY_ERR && !m.getLsbD 2) := rfl
@[simp] theorem clearSticky_OVF_ERR (m : Word) (st : Status) : (clearSticky m st).OVF_ERR = (st.OVF_ERR && !m.getLsbD 3) := rfl
@[simp] theorem clearSticky_RANGE_ERR (m : Word) (st : Status) : (clearSticky m st).RANGE_ERR = (st.RANGE_ERR && !m.getLsbD 4) := rfl
@[simp] theorem clearSticky_CMD_ERR (m : Word) (st : Status) : (clearSticky m st).CMD_ERR = (st.CMD_ERR && !m.getLsbD 5) := rfl
@[simp] theorem clearSticky_ACC_ERR (m : Word) (st : Status) : (clearSticky m st).ACC_ERR = (st.ACC_ERR && !m.getLsbD 6) := rfl

@[simp] theorem recordError_VALID (e : ErrorClass) (st : Status) : (recordError e st).VALID = st.VALID := by cases e <;> rfl
@[simp] theorem recordError_DEGEN (e : ErrorClass) (st : Status) : (recordError e st).DEGEN = st.DEGEN := by cases e <;> rfl
@[simp] theorem recordError_EMPTY_ERR (e : ErrorClass) (st : Status) :
    (recordError e st).EMPTY_ERR = (st.EMPTY_ERR || e == .empty) := by cases e <;> simp [recordError, setSticky]
@[simp] theorem recordError_OVF_ERR (e : ErrorClass) (st : Status) :
    (recordError e st).OVF_ERR = (st.OVF_ERR || e == .ovf) := by cases e <;> simp [recordError, setSticky]
@[simp] theorem recordError_RANGE_ERR (e : ErrorClass) (st : Status) :
    (recordError e st).RANGE_ERR = (st.RANGE_ERR || e == .range) := by cases e <;> simp [recordError, setSticky]
@[simp] theorem recordError_CMD_ERR (e : ErrorClass) (st : Status) :
    (recordError e st).CMD_ERR = (st.CMD_ERR || e == .cmd) := by cases e <;> simp [recordError, setSticky]
@[simp] theorem recordError_ACC_ERR (e : ErrorClass) (st : Status) :
    (recordError e st).ACC_ERR = (st.ACC_ERR || e == .acc) := by cases e <;> simp [recordError, setSticky]
@[simp] theorem recordError_CAUSE (e : ErrorClass) (st : Status) :
    (recordError e st).CAUSE = if st.CAUSE = 0#4 then errorCode e else st.CAUSE := by cases e <;> rfl

/-- An error is outstanding after it was recorded. -/
@[simp] theorem anySticky_recordError (e : ErrorClass) (st : Status) :
    anySticky (recordError e st) = true := by cases e <;> simp [anySticky]

@[simp] theorem anySticky_staleResult (st : Status) : anySticky (staleResult st) = anySticky st := rfl

@[simp] theorem anySticky_currentResult (d : Bool) (st : Status) :
    anySticky (currentResult d st) = anySticky st := rfl

/-- CAUSE after an acknowledgement: kept while a sticky bit remains (42_control.md R154). -/
@[simp] theorem clearSticky_CAUSE (m : Word) (st : Status) :
    (clearSticky m st).CAUSE = if anySticky (clearSticky m st) then st.CAUSE else 0#4 := rfl

theorem errorCode_ne_zero (e : ErrorClass) : errorCode e ≠ 0#4 := by cases e <;> decide

theorem errorCode_le (e : ErrorClass) : (errorCode e).toNat ≤ 5 := by cases e <;> decide

/-- The cause of an error just recorded is never 0. -/
theorem recordError_CAUSE_ne_zero (e : ErrorClass) (st : Status) : (recordError e st).CAUSE ≠ 0#4 := by
  rw [recordError_CAUSE]
  split
  · exact errorCode_ne_zero e
  · assumption

/-! ### A committed solve -/

@[simp] theorem commitSolve_H (a : Sweep) (s : State) : (commitSolve a s).H = s.H := by
  cases h : a.found <;> simp [commitSolve, h]
@[simp] theorem commitSolve_N (a : Sweep) (s : State) : (commitSolve a s).N = s.N := by
  cases h : a.found <;> simp [commitSolve, h]
@[simp] theorem commitSolve_THRESH (a : Sweep) (s : State) : (commitSolve a s).THRESH = if a.found then a.t else 0#8 := by
  cases h : a.found <;> simp [commitSolve, h]
@[simp] theorem commitSolve_VARMAX (a : Sweep) (s : State) : (commitSolve a s).VARMAX = if a.found then a.best else 0#64 := by
  cases h : a.found <;> simp [commitSolve, h]
@[simp] theorem commitSolve_STATUS (a : Sweep) (s : State) : (commitSolve a s).STATUS = currentResult (!a.found) s.STATUS := by
  cases h : a.found <;> simp [commitSolve, h]
@[simp] theorem commitSolve_response (a : Sweep) (s : State) : (commitSolve a s).response = s.response := by
  cases h : a.found <;> simp [commitSolve, h]
@[simp] theorem commitSolve_txIndex (a : Sweep) (s : State) : (commitSolve a s).txIndex = s.txIndex := by
  cases h : a.found <;> simp [commitSolve, h]
@[simp] theorem commitSolve_pending (a : Sweep) (s : State) : (commitSolve a s).pending = s.pending := by
  cases h : a.found <;> simp [commitSolve, h]

end Sys2Proof.Machine
end

