-- ==== Sys2Proof/Laws/Ops.lean ====
section
/-! SUPPORT. What each shared operation does, once: bins, tallies, tally writes, errors, and that each
keeps the histogram conserved (10_state.md R23). -/

namespace Sys2Proof.Machine

/-! ### Bins -/

@[simp] theorem bin_setBin_same (v : Byte) (x : Word) (s : State) : bin (setBin v x s) v = x := by
  simp [bin]

theorem bin_setBin_other {u v : Byte} (h : u ≠ v) (x : Word) (s : State) :
    bin (setBin v x s) u = bin s u := by
  have hne : v.toNat ≠ u.toNat := fun e => h (BitVec.eq_of_toNat_eq e.symm)
  simp [bin, Vector.getElem_set_ne, hne]

/-- A bin depends on the bin file alone. -/
theorem bin_congr {a b : State} (h : a.H = b.H) (v : Byte) : bin a v = bin b v := by
  simp only [bin, h]

theorem bin_cleared (s : State) (v : Byte) (h : s.H = Vector.replicate 256 0#32) :
    bin s v = 0#32 := by
  simp [bin, h]

@[simp] theorem bin_clearAll (s : State) (v : Byte) : bin (clearAll s) v = 0#32 := bin_cleared _ _ rfl

@[simp] theorem bin_reset (v : Byte) : bin State.reset v = 0#32 := bin_cleared _ _ rfl

@[simp] theorem bin_resetEvent (s : State) (v : Byte) : bin (resetEvent s) v = 0#32 :=
  bin_cleared _ _ rfl

@[simp] theorem bin_resetOutstanding (s : State) (v : Byte) : bin (resetOutstanding s) v = 0#32 :=
  bin_cleared _ _ rfl

@[simp] theorem bin_invalidate (s : State) (v : Byte) : bin (invalidate s) v = bin s v := rfl

@[simp] theorem bin_raiseError (e : ErrorClass) (s : State) (v : Byte) :
    bin (raiseError e s) v = bin s v := rfl

/-- Equal bin files are files that agree on every bin. -/
theorem H_ext {a b : State} (h : ∀ v, bin a v = bin b v) : a.H = b.H := by
  apply Vector.ext
  intro i hi
  have := h (BitVec.ofNat 8 i)
  simpa [bin, Nat.mod_eq_of_lt (show i < 256 from hi)] using this

/-! ### Tallies (40_histogram.md R101) -/

/-- `Tally(x)` adds one to bin `x` and to no other. -/
theorem bin_tally (x v : Byte) (s : State) :
    bin (tally x s) v = bin s v + if v = x then 1 else 0 := by
  have e : bin (tally x s) v = bin (setBin x (bin s x + 1) s) v := rfl
  by_cases h : v = x
  · subst h; simp [e]
  · simp [e, bin_setBin_other h, h]

theorem bin_tallyAll (xs : List Byte) (v : Byte) (s : State) :
    bin (tallyAll xs s) v = bin s v + BitVec.ofNat 32 (xs.count v) := by
  induction xs generalizing s with
  | nil => simp [tallyAll]
  | cons x xs ih =>
    rw [tallyAll, ih, bin_tally, List.count_cons]
    by_cases h : v = x
    · subst h
      simp only [if_true, beq_self_eq_true, BitVec.ofNat_add]
      rw [BitVec.add_assoc, BitVec.add_comm 1]; rfl
    · have h' : ¬ x = v := fun e => h e.symm
      simp [h, h']

theorem tallyAll_N (xs : List Byte) (s : State) :
    (tallyAll xs s).N = s.N + BitVec.ofNat 32 xs.length := by
  induction xs generalizing s with
  | nil => simp [tallyAll]
  | cons x xs ih =>
    rw [tallyAll, ih, tally_N, List.length_cons, BitVec.ofNat_add, BitVec.add_assoc,
      BitVec.add_comm 1]
    rfl

/-- Tallies change nothing but the bin file and N. -/
theorem tallyAll_rest (xs : List Byte) (s : State) :
    (tallyAll xs s).THRESH = s.THRESH ∧ (tallyAll xs s).VARMAX = s.VARMAX ∧
    (tallyAll xs s).STATUS = s.STATUS ∧ (tallyAll xs s).response = s.response ∧
    (tallyAll xs s).txIndex = s.txIndex ∧ (tallyAll xs s).pending = s.pending := by
  induction xs generalizing s with
  | nil => simp [tallyAll]
  | cons x xs ih => simpa [tallyAll] using ih (tally x s)

@[simp] theorem tallyAll_THRESH (xs : List Byte) (s : State) : (tallyAll xs s).THRESH = s.THRESH :=
  (tallyAll_rest xs s).1

@[simp] theorem tallyAll_VARMAX (xs : List Byte) (s : State) : (tallyAll xs s).VARMAX = s.VARMAX :=
  (tallyAll_rest xs s).2.1

@[simp] theorem tallyAll_STATUS (xs : List Byte) (s : State) : (tallyAll xs s).STATUS = s.STATUS :=
  (tallyAll_rest xs s).2.2.1

@[simp] theorem tallyAll_txIndex (xs : List Byte) (s : State) :
    (tallyAll xs s).txIndex = s.txIndex := (tallyAll_rest xs s).2.2.2.2.1

@[simp] theorem tallyAll_pending (xs : List Byte) (s : State) :
    (tallyAll xs s).pending = s.pending := (tallyAll_rest xs s).2.2.2.2.2

/-- A tally write refused: only the error is recorded (40_histogram.md R107). -/
theorem tallyWrite_refused {xs : List Byte} {s : State} (h : 0xFFFFFFFF < s.N.toNat + xs.length) :
    tallyWrite xs s = raiseError .ovf s := by
  have : countGuard xs.length s = true := decide_eq_true h
  simp [tallyWrite, this]

/-- A tally write accepted (40_histogram.md R102, R104). -/
theorem tallyWrite_accepted {xs : List Byte} {s : State} (h : s.N.toNat + xs.length ≤ 0xFFFFFFFF) :
    tallyWrite xs s = invalidate (tallyAll xs s) := by
  have : countGuard xs.length s = false := decide_eq_false (Nat.not_lt.mpr h)
  simp [tallyWrite, this]

/-- A tally write either is refused whole or tallies all of its samples. -/
theorem tallyWrite_cases (xs : List Byte) (s : State) :
    (0xFFFFFFFF < s.N.toNat + xs.length ∧ tallyWrite xs s = raiseError .ovf s) ∨
    (s.N.toNat + xs.length ≤ 0xFFFFFFFF ∧ tallyWrite xs s = invalidate (tallyAll xs s)) := by
  rcases Nat.lt_or_ge 0xFFFFFFFF (s.N.toNat + xs.length) with h | h
  · exact .inl ⟨h, tallyWrite_refused h⟩
  · exact .inr ⟨h, tallyWrite_accepted h⟩

/-! ### Conservation (10_state.md R23) -/

theorem toNat_sum_set (l : List Word) (i : Nat) (h : i < l.length) (x : Word) :
    ((l.set i x).map BitVec.toNat).sum + (l[i]).toNat = (l.map BitVec.toNat).sum + x.toNat := by
  induction l generalizing i with
  | nil => simp at h
  | cons y ys ih =>
    cases i with
    | zero => simp; omega
    | succ i =>
      have := ih i (by simpa using h)
      simp only [List.set_cons_succ, List.map_cons, List.sum_cons, List.getElem_cons_succ]
      omega

theorem binSum_set (H : Vector Word 256) (i : Nat) (h : i < 256) (x : Word) :
    binSum (H.set i x h) + (H[i]).toNat = binSum H + x.toNat := by
  have := toNat_sum_set H.toList i (by simpa using h) x
  simpa [binSum, Vector.toList_set] using this

/-- A bin is at most the sum of all of them. -/
theorem bin_le_binSum (s : State) (v : Byte) : (bin s v).toNat ≤ binSum s.H := by
  have := binSum_set s.H v.toNat v.isLt 0
  have e : (0 : Word).toNat = 0 := rfl
  have e' : s.H[v.toNat]'v.isLt = bin s v := rfl
  rw [e, e'] at this
  omega

@[simp] theorem binSum_zero : binSum (Vector.replicate 256 0#32) = 0 := by
  have e : (Vector.replicate 256 0#32).toList = List.replicate 256 0#32 := rfl
  rw [binSum, e, List.map_replicate, List.sum_replicate]
  rfl

/-- With every bin at most N, and N below COUNT_MAX, a tally wraps nothing. -/
theorem conserved_tally {x : Byte} {s : State} (h : Conserved s) (hN : s.N.toNat + 1 ≤ 0xFFFFFFFF) :
    Conserved (tally x s) := by
  have hb := bin_le_binSum s x
  have hs := binSum_set s.H x.toNat x.isLt (bin s x + 1)
  simp only [Conserved] at h ⊢
  have e1 : (bin s x + 1).toNat = (bin s x).toNat + 1 := by
    rw [BitVec.toNat_add]; simp; omega
  have e2 : (s.N + 1).toNat = s.N.toNat + 1 := by
    rw [BitVec.toNat_add]; simp; omega
  have e3 : (s.H[x.toNat]'x.isLt) = bin s x := rfl
  rw [e1, e3] at hs
  simp only [tally_N, tally_H, e2]
  omega

theorem conserved_tallyAll {xs : List Byte} {s : State} (h : Conserved s)
    (hN : s.N.toNat + xs.length ≤ 0xFFFFFFFF) : Conserved (tallyAll xs s) := by
  induction xs generalizing s with
  | nil => simpa [tallyAll] using h
  | cons x xs ih =>
    simp only [List.length_cons] at hN
    have e : (tally x s).N.toNat = s.N.toNat + 1 := by
      rw [tally_N, BitVec.toNat_add]; simp; omega
    exact ih (conserved_tally h (by omega)) (by omega)

/-- Conservation depends on the bin file and N alone. -/
theorem conserved_congr {a b : State} (hH : a.H = b.H) (hN : a.N = b.N) (h : Conserved b) :
    Conserved a := by
  simpa [Conserved, hH, hN] using h

theorem conserved_tallyWrite {xs : List Byte} {s : State} (h : Conserved s) :
    Conserved (tallyWrite xs s) := by
  rcases tallyWrite_cases xs s with ⟨_, e⟩ | ⟨hN, e⟩ <;> rw [e]
  · exact conserved_congr rfl rfl h
  · exact conserved_congr rfl rfl (conserved_tallyAll h hN)

/-! ### Reset -/

/-- A reset leaves HAOS's own state as the spec gives it (10_state.md R34). -/
theorem resetEvent_registers (s : State) : sameRegisters (resetEvent s) State.reset := by
  simp [sameRegisters]

theorem resetOutstanding_registers (s : State) : sameRegisters (resetOutstanding s) State.reset := by
  simp [sameRegisters]

end Sys2Proof.Machine
end

