-- ==== Sys2Proof/Laws/Float64.lean ====
section
/-! SUPPORT. What the binary64 functions of Machine/Float64.lean do: the logarithm, rounding an integer
ratio ties to even, packing and unpacking, forced evaluation. -/

namespace Sys2Proof.Machine

/-- Forced evaluation is plain application. -/
@[simp] theorem forced_eq {α : Type} (x : F64) (k : F64 → α) : forced x k = k x := by
  unfold forced
  split
  next h => exact congrArg k (BitVec.eq_of_toNat_eq (by simp [h]))
  next n h =>
    have hx := x.isLt
    exact congrArg k (BitVec.eq_of_toNat_eq (by rw [BitVec.toNat_ofNat]; omega))

/-- `floorLog2 k` is the binary logarithm on `2^(2^k)` numbers. -/
theorem floorLog2_eq_log2 (k n : Nat) (h : n < 2 ^ 2 ^ k) : floorLog2 k n = Nat.log2 n := by
  induction k generalizing n with
  | zero =>
    have : n = 0 ∨ n = 1 := by simp at h; omega
    rcases this with rfl | rfl <;> decide
  | succ k ih =>
    rw [floorLog2]
    split
    next hlt => exact ih n hlt
    next hge =>
      have hge : 2 ^ 2 ^ k ≤ n := Nat.le_of_not_lt hge
      have hq : n / 2 ^ 2 ^ k < 2 ^ 2 ^ k := by
        rw [Nat.div_lt_iff_lt_mul (by positivity), ← Nat.pow_add]
        rwa [show 2 ^ k + 2 ^ k = 2 ^ (k + 1) by ring]
      have hq1 : 1 ≤ n / 2 ^ 2 ^ k := (Nat.one_le_div_iff (by positivity)).mpr hge
      have hn : n ≠ 0 := by have : 0 < 2 ^ 2 ^ k := by positivity
                            omega
      rw [ih _ hq]
      have hs := Nat.log2_self_le (show n / 2 ^ 2 ^ k ≠ 0 by omega)
      have hl := Nat.lt_log2_self (n := n / 2 ^ 2 ^ k)
      symm
      rw [Nat.log2_eq_iff hn]
      constructor
      · rw [Nat.pow_add]
        calc 2 ^ 2 ^ k * 2 ^ (n / 2 ^ 2 ^ k).log2 ≤ 2 ^ 2 ^ k * (n / 2 ^ 2 ^ k) :=
              Nat.mul_le_mul_left _ hs
          _ ≤ n := Nat.mul_div_le n _
      · rw [Nat.add_assoc, Nat.pow_add]
        rw [Nat.mul_comm]
        exact (Nat.div_lt_iff_lt_mul (by positivity)).mp hl

/-- Rounding an integer ratio is off by at most half, and by exactly half only to an even number. -/
theorem divTiesToEven_spec (n d : Nat) (hd : 0 < d) :
    2 * n ≤ (2 * divTiesToEven n d + 1) * d ∧ 2 * (divTiesToEven n d) * d ≤ 2 * n + d ∧
    ((2 * n = (2 * divTiesToEven n d + 1) * d ∨ 2 * divTiesToEven n d * d = 2 * n + d) →
      divTiesToEven n d % 2 = 0) := by
  have e := Nat.div_add_mod n d
  have hr := Nat.mod_lt n hd
  unfold divTiesToEven
  generalize n / d = q at *
  generalize n % d = r at *
  simp only
  subst e
  split
  next h =>
    have h0 : d ≤ 2 * r := by omega
    refine ⟨by nlinarith, by nlinarith, ?_⟩
    rintro (h1 | h1)
    · nlinarith
    · rcases h with h | h
      · nlinarith
      · omega
  next h =>
    have h1 : 2 * r ≤ d := by omega
    refine ⟨by nlinarith, by nlinarith, ?_⟩
    rintro (h2 | h2)
    · have : d = 2 * r := by nlinarith
      omega
    · have : 0 < d := hd
      nlinarith

/-- An exact integer ratio is not changed. -/
theorem divTiesToEven_exact (q d : Nat) (hd : 0 < d) : divTiesToEven (q * d) d = q := by
  simp only [divTiesToEven, Nat.mul_div_cancel q hd, Nat.mul_mod_left, Nat.mul_zero]
  rw [if_neg (by omega)]

/-- The sign and the magnitude come back from a packed encoding. -/
theorem unpack_packMag (neg : Bool) (mag : Nat) (h : mag < 2 ^ 63) :
    unpack (packMag neg mag) =
      if mag < infMag then .fin neg (unitsOf mag) else if mag = infMag then .inf neg else .nan := by
  have e : (packMag neg mag).toNat = (if neg then 2 ^ 63 else 0) + mag := by
    rw [packMag, BitVec.toNat_ofNat, Nat.mod_eq_of_lt]
    cases neg <;> simp <;> omega
  have hm : (packMag neg mag).toNat % 2 ^ 63 = mag := by
    rw [e]; cases neg <;> simp <;> omega
  have hs : (packMag neg mag).getLsbD 63 = neg := by
    rw [← BitVec.testBit_toNat, e, Nat.testBit_eq_decide_div_mod_eq]
    cases neg <;> simp <;> omega
  simp only [unpack, hm, hs]

/-- A datum is finite with its encoding's sign, an infinity of that sign, or a NaN. -/
theorem unpack_cases (x : F64) :
    (∃ u, unpack x = .fin (x.getLsbD 63) u) ∨ unpack x = .inf (x.getLsbD 63) ∨ unpack x = .nan := by
  simp only [unpack]
  split
  · exact .inl ⟨_, rfl⟩
  · split
    · exact .inr (.inl rfl)
    · exact .inr (.inr rfl)

theorem infMag_lt : infMag < 2 ^ 63 := by decide

theorem roundMag_le (n d : Nat) : roundMag n d ≤ infMag := Nat.min_le_left _ _

/-- A rounded result is finite or an infinity, never a NaN. -/
theorem unpack_roundUnits (neg : Bool) (n d : Nat) :
    unpack (roundUnits neg n d) =
      if roundMag n d < infMag then .fin neg (unitsOf (roundMag n d)) else .inf neg := by
  have h := roundMag_le n d
  have hi := infMag_lt
  rw [roundUnits, unpack_packMag _ _ (by omega)]
  split
  · rfl
  · rw [if_pos (by omega)]

end Sys2Proof.Machine
end

