-- ==== Sys2Proof/Laws/Otsu.lean ====
section
/-! SUPPORT. The functions of the solve without their forced evaluation, and what one index of the sweep
can do (41_otsu.md R124, R125, R127). -/

namespace Sys2Proof.Machine

theorem probabilities_eq (H : Vector Word 256) (N : Word) :
    probabilities H N = H.toList.map fun h => f64Div (f64OfNat h.toNat) (f64OfNat N.toNat) := by
  rw [probabilities, forced_eq]

@[simp] theorem probabilities_length (H : Vector Word 256) (N : Word) :
    (probabilities H N).length = 256 := by
  simp [probabilities_eq]

@[simp] theorem meanFrom_nil (i : Nat) (mg : F64) : meanFrom i mg [] = mg := rfl

@[simp] theorem meanFrom_cons (i : Nat) (mg p : F64) (ps : List F64) :
    meanFrom i mg (p :: ps) = meanFrom (i + 1) (f64Add mg (f64Mul (f64OfNat i) p)) ps := by
  rw [meanFrom, forced_eq]

@[simp] theorem sweepFrom_nil (mg : F64) (i : Nat) (a : Sweep) : sweepFrom mg i [] a = a := rfl

@[simp] theorem sweepFrom_cons (mg : F64) (i : Nat) (p : F64) (ps : List F64) (a : Sweep) :
    sweepFrom mg i (p :: ps) a = sweepFrom mg (i + 1) ps (sweepAt mg i p a) := rfl

theorem otsu_eq (H : Vector Word 256) (N : Word) :
    otsu H N =
      sweepFrom (globalMean (probabilities H N)) 0 (probabilities H N) Sweep.initial := by
  rw [otsu, forced_eq]

@[simp] theorem sweepAt_w (mg : F64) (i : Nat) (p : F64) (a : Sweep) :
    (sweepAt mg i p a).w = f64Add a.w p := by
  simp only [sweepAt, forced_eq]
  split
  · split <;> rfl
  · rfl

@[simp] theorem sweepAt_mu (mg : F64) (i : Nat) (p : F64) (a : Sweep) :
    (sweepAt mg i p a).mu = f64Add a.mu (f64Mul (f64OfNat i) p) := by
  simp only [sweepAt, forced_eq]
  split
  · split <;> rfl
  · rfl

@[simp] theorem sweepAt_found (mg : F64) (i : Nat) (p : F64) (a : Sweep) :
    (sweepAt mg i p a).found = (a.found || isCandidate (f64Add a.w p)) := by
  simp only [sweepAt, forced_eq]
  split
  next h => split <;> simp [h]
  next h => simp [h]

/-- The best value and its index move only to a candidate of strictly greater variance. -/
theorem sweepAt_best_cases (mg : F64) (i : Nat) (p : F64) (a : Sweep) :
    (isCandidate (f64Add a.w p) = true ∧
      f64Lt a.best (variance mg (f64Add a.w p) (f64Add a.mu (f64Mul (f64OfNat i) p))) = true ∧
      (sweepAt mg i p a).best = variance mg (f64Add a.w p) (f64Add a.mu (f64Mul (f64OfNat i) p)) ∧
      (sweepAt mg i p a).t = BitVec.ofNat 8 i) ∨
    (¬ (isCandidate (f64Add a.w p) = true ∧
      f64Lt a.best (variance mg (f64Add a.w p) (f64Add a.mu (f64Mul (f64OfNat i) p))) = true) ∧
      (sweepAt mg i p a).best = a.best ∧ (sweepAt mg i p a).t = a.t) := by
  simp only [sweepAt, forced_eq]
  split
  next h =>
    split
    next h' => exact .inl ⟨h, h', rfl, rfl⟩
    next h' => exact .inr ⟨fun c => h' c.2, rfl, rfl⟩
  next h => exact .inr ⟨fun c => h c.1, rfl, rfl⟩

/-- What is above a value of sign 0 has sign 0 itself. -/
theorem sign_of_f64Lt {a b : F64} (ha : a.getLsbD 63 = false) (h : f64Lt a b = true) :
    b.getLsbD 63 = false := by
  by_contra hb
  have hb : b.getLsbD 63 = true := by simpa using hb
  rcases unpack_cases a with ⟨x, ea⟩ | ea | ea <;> rcases unpack_cases b with ⟨y, eb⟩ | eb | eb <;>
    simp only [f64Lt, ea, eb, ha, hb] at h <;> simp [signedUnits] at h
  omega

/-- The best value of a sweep keeps a sign of 0. -/
theorem sweepFrom_best_sign (mg : F64) (i : Nat) (ps : List F64) (a : Sweep)
    (h : a.best.getLsbD 63 = false) : (sweepFrom mg i ps a).best.getLsbD 63 = false := by
  induction ps generalizing i a with
  | nil => simpa
  | cons p ps ih =>
    rw [sweepFrom_cons]
    apply ih
    rcases sweepAt_best_cases mg i p a with ⟨_, hlt, e, _⟩ | ⟨_, e, _⟩ <;> rw [e]
    · exact sign_of_f64Lt h hlt
    · exact h

end Sys2Proof.Machine
end

