-- ==== Sys2Proof/Laws/Exec.lean ====
section
/-! SUPPORT. What an instruction does, once: every instruction completes with a response, and its effect
on the state is one of the shared operations. And what one step does with each port event. -/

namespace Sys2Proof.Machine

/-- The effect of an instruction on the state, before the transaction completes. -/
def effect : Instr → State → State
  | .nop, s => s
  | .clear, s => clearAll s
  | .solve, s =>
    if s.N = 0 then raiseError .empty (invalidate s) else commitSolve (otsu s.H s.N) s
  | .cmdBad _ _, s => raiseError .cmd s
  | .rdStatus, s => s
  | .wrStatus m, s => acknowledge m s
  | .tally1 x, s => tallyWrite [x] s
  | .tally1Bad _, s => raiseError .range s
  | .tally4 x0 x1 x2 x3, s => tallyWrite [x0, x1, x2, x3] s
  | .rdCount, s => s
  | .rdThresh, s => s
  | .rdVarlo, s => s
  | .rdVarhi, s => s
  | .rdBin _, s => s
  | .accBad _, s => raiseError .acc s

/-- The data of an instruction's response. -/
def rdata : Instr → State → Word
  | .nop, _ => 0
  | .clear, _ => 0
  | .solve, _ => 0
  | .cmdBad _ _, _ => 0
  | .rdStatus, s => statusWord s.STATUS
  | .wrStatus _, _ => 0
  | .tally1 _, _ => 0
  | .tally1Bad _, _ => 0
  | .tally4 _ _ _ _, _ => 0
  | .rdCount, s => s.N
  | .rdThresh, s => threshWord s
  | .rdVarlo, s => varmaxLo s
  | .rdVarhi, s => varmaxHi s
  | .rdBin v, s => bin s v
  | .accBad _, _ => 0

/-- The state after an instruction. -/
def after (i : Instr) (s : State) : State :=
  { effect i s with response := some (rdata i s), txIndex := (effect i s).txIndex + 1 }

/-- Every instruction answers a next state, and this one. -/
theorem exec_eq (i : Instr) (s : State) : exec i s = .next (after i s) := by
  cases i
  case solve =>
    by_cases h : s.N = 0 <;> simp only [exec, execSolve, complete, after, effect, rdata, h,
      if_true, if_false]
  all_goals rfl

/-- Inversion: a next state of an instruction is `after`. -/
theorem exec_next {i : Instr} {s t : State} (h : exec i s = .next t) : t = after i s := by
  rw [exec_eq] at h
  exact (Host.Outcome.next.inj h).symm

@[simp] theorem after_H (i : Instr) (s : State) : (after i s).H = (effect i s).H := rfl

@[simp] theorem after_N (i : Instr) (s : State) : (after i s).N = (effect i s).N := rfl

@[simp] theorem after_THRESH (i : Instr) (s : State) : (after i s).THRESH = (effect i s).THRESH := rfl

@[simp] theorem after_VARMAX (i : Instr) (s : State) : (after i s).VARMAX = (effect i s).VARMAX := rfl

@[simp] theorem after_STATUS (i : Instr) (s : State) : (after i s).STATUS = (effect i s).STATUS := rfl

@[simp] theorem after_response (i : Instr) (s : State) :
    (after i s).response = some (rdata i s) := rfl

@[simp] theorem bin_after (i : Instr) (s : State) (v : Byte) :
    bin (after i s) v = bin (effect i s) v := rfl

/-- No effect moves the transaction index or the pending events. -/
theorem effect_port (i : Instr) (s : State) :
    (effect i s).txIndex = s.txIndex ∧ (effect i s).pending = s.pending := by
  cases i
  case solve => simp only [effect]; split <;> simp
  case tally1 x => rcases tallyWrite_cases [x] s with ⟨_, e⟩ | ⟨_, e⟩ <;> simp [effect, e]
  case tally4 x0 x1 x2 x3 =>
    rcases tallyWrite_cases [x0, x1, x2, x3] s with ⟨_, e⟩ | ⟨_, e⟩ <;> simp [effect, e]
  all_goals simp [effect]

@[simp] theorem after_txIndex (i : Instr) (s : State) : (after i s).txIndex = s.txIndex + 1 :=
  congrArg (· + 1) (effect_port i s).1

@[simp] theorem after_pending (i : Instr) (s : State) : (after i s).pending = s.pending :=
  (effect_port i s).2

/-! ### One step -/

theorem step_idle {s : State} (h : s.pending = []) : step s = .next (idle s) := by
  simp [step, h]

theorem step_request {s : State} {t : TWord} {es : List PortEvent}
    (h : s.pending = .request t :: es) : step s = exec (decode t) (withPending es s) := by
  simp [step, h]

theorem step_reset {s : State} {es : List PortEvent} (h : s.pending = .reset :: es) :
    step s = .next (resetEvent (withPending es s)) := by
  simp [step, h]

theorem step_resetDuring {s : State} {t : TWord} {es : List PortEvent}
    (h : s.pending = .resetDuring t :: es) :
    step s = .next (resetOutstanding (withPending es s)) := by
  simp [step, h]

/-- A run takes its first step first. -/
theorem run_succ_of_step {s t : State} (n : Nat) (h : step s = .next t) :
    Host.Core.run Sys2Proof.core (n + 1) s = Host.Core.run Sys2Proof.core n t := by
  have e : Sys2Proof.core.step s = .next t := h
  simp only [Host.Core.run, e]

/-- A placed request is the one that the next step performs. -/
theorem step_withFetchWord (s : State) (nbits w : Nat) :
    step (s.withFetchWord nbits w) = exec (decode (BitVec.ofNat 46 (w % 2 ^ nbits))) s := rfl

end Sys2Proof.Machine
end

