-- ==== Sys2Proof/Laws/PerInstr.lean ====
section
/-! SUPPORT. One lemma per constructor: a well-formed instruction's encoding matches the mask and the
bits of its own row of the opcode table (30_encoding.md R78). -/

namespace Sys2Proof.Laws.OwnRow

/-- The mask and the bits of an instruction's row, as 30_encoding.md R78 lists them. -/
def row : Instr → TWord × TWord
  | .nop => (0x3FFFFFFFFFFF, 0x300000000000)
  | .clear => (0x3FFFFFFFFFFF, 0x300000000001)
  | .solve => (0x3FFFFFFFFFFF, 0x300000000002)
  | .cmdBad _ _ => (0x3FFF00000000, 0x300000000000)
  | .rdStatus => (0x3FFF00000000, 0x100400000000)
  | .wrStatus _ => (0x3FFF00000000, 0x300400000000)
  | .tally1 _ => (0x3FFFFFFFFF00, 0x300800000000)
  | .tally1Bad _ => (0x3FFF00000000, 0x300800000000)
  | .tally4 _ _ _ _ => (0x3FFF00000000, 0x300C00000000)
  | .rdCount => (0x3FFF00000000, 0x101000000000)
  | .rdThresh => (0x3FFF00000000, 0x101400000000)
  | .rdVarlo => (0x3FFF00000000, 0x101800000000)
  | .rdVarhi => (0x3FFF00000000, 0x101C00000000)
  | .rdBin _ => (0x3C0300000000, 0x140000000000)
  | .accBad _ => (0x000000000000, 0x000000000000)

/-- The encoding of the instruction matches its own row. -/
def Statement (i : Instr) : Prop :=
  i.wellFormed = true → encode i &&& (row i).1 = (row i).2

theorem nop : Statement .nop := fun _ => by decide

theorem clear : Statement .clear := fun _ => by decide

theorem solve : Statement .solve := fun _ => by decide

theorem cmdBad (rsv : BitVec 24) (op : Byte) : Statement (.cmdBad rsv op) := fun _ =>
  and_mask_access true 2 0x000 _

theorem rdStatus : Statement .rdStatus := fun _ => by decide

theorem wrStatus (m : Word) : Statement (.wrStatus m) := fun _ => and_mask_access true 2 0x004 m

theorem tally1 (x : Byte) : Statement (.tally1 x) := fun _ =>
  (and_mask_sample true 2 0x008 _).trans (by rw [sample_and_high]; rfl)

theorem tally1Bad (data : Word) : Statement (.tally1Bad data) := fun _ =>
  and_mask_access true 2 0x008 data

theorem tally4 (x0 x1 x2 x3 : Byte) : Statement (.tally4 x0 x1 x2 x3) := fun _ =>
  and_mask_access true 2 0x00C _

theorem rdCount : Statement .rdCount := fun _ => by decide

theorem rdThresh : Statement .rdThresh := fun _ => by decide

theorem rdVarlo : Statement .rdVarlo := fun _ => by decide

theorem rdVarhi : Statement .rdVarhi := fun _ => by decide

theorem rdBin (v : Byte) : Statement (.rdBin v) := fun _ =>
  (and_mask_bin false 2 (binOffset v) 0).trans (by rw [binOffset_and]; rfl)

theorem accBad (a : BadAccess) : Statement (.accBad a) := fun _ => BitVec.and_zero

end Sys2Proof.Laws.OwnRow
end

