-- ==== Sys2Proof/Tests/Slice0.lean ====
section
/-! SUPPORT. Tests of the model against the spec's own examples (95_test_vectors.md, cited by id), the
ill-formed terms that WellFormed refuses, and for each statement with hypotheses a witness that meets
them. Expected values are the spec's. -/

namespace Sys2Proof.Tests

-- One theorem at a time: each one elaborated beside the others would reserve memory of its own.
set_option Elab.async false

open Sys2Proof Sys2Proof.Machine

/-! ### Helpers -/

/-- The state after a result, if it is a next state. -/
def nextOf : Result → Option State
  | .next s => some s
  | .fault _ => none
  | .refused _ => none

/-- One step on the transaction word `w`, which is the next thing the host sends. -/
def afterWord (w : Nat) (s : State) : Option State := nextOf (step (s.withFetchWord 48 w))

/-- The status word after one step on `w`. -/
def statusAfter (w : Nat) (s : State) : Option Word := (afterWord w s).map fun t => statusWord t.STATUS

/-- The response of one step on `w`. -/
def answer (w : Nat) (s : State) : Option Word := (afterWord w s).bind State.response

/-- Reset, with these bins and this count. -/
def hist (bins : List (Byte × Word)) (n : Word) : State :=
  { bins.foldl (fun s b => setBin b.1 b.2 s) State.reset with N := n }

/-- `s` with the five sticky bits EMPTY, OVF, RANGE, CMD, ACC and this CAUSE. -/
def withErrors (e o r c a : Bool) (cause : BitVec 4) (s : State) : State :=
  { s with STATUS := { s.STATUS with
      EMPTY_ERR := e, OVF_ERR := o, RANGE_ERR := r, CMD_ERR := c, ACC_ERR := a, CAUSE := cause } }

/-- V1 after its solve: H[10] = H[200] = 2, THRESH 10, VARMAX 9025.0 (95_test_vectors.md S1). -/
def solvedV1 : State :=
  { hist [(10, 2), (200, 2)] 4 with
    THRESH := 10, VARMAX := 0x40C1A08000000000, STATUS := currentResult false Status.reset }

/-- V2 after its solve: one bin, degenerate (95_test_vectors.md S2). -/
def solvedV2 : State :=
  { hist [(7, 5)] 5 with STATUS := currentResult true Status.reset }

/-! ### WellFormed refuses -/

/-- NOP's, CLEAR's and SOLVE's words are no CMD.BAD (30_encoding.md R73). -/
theorem test_ill_formed_command :
    (Instr.cmdBad 0 0).wellFormed = false ∧ (Instr.cmdBad 0 1).wellFormed = false ∧
    (Instr.cmdBad 0 2).wellFormed = false ∧ (Instr.cmdBad 0 3).wellFormed = true := by decide

/-- A sample of 255 is no TALLY1.BAD (30_encoding.md R74). -/
theorem test_ill_formed_sample :
    (Instr.tally1Bad 255).wellFormed = false ∧ (Instr.tally1Bad 256).wellFormed = true := by decide

/-- Supported reads are no ACC.BAD; each condition of 42_control.md R156 alone makes one. -/
theorem test_ill_formed_bad_read :
    (Instr.accBad (.read 2 0x004)).wellFormed = false ∧
    (Instr.accBad (.read 2 0x010)).wellFormed = false ∧
    (Instr.accBad (.read 2 0x01C)).wellFormed = false ∧
    (Instr.accBad (.read 2 0x400)).wellFormed = false ∧
    (Instr.accBad (.read 2 0x7FC)).wellFormed = false ∧
    (Instr.accBad (.read 3 0x004)).wellFormed = true ∧
    (Instr.accBad (.read 2 0x006)).wellFormed = true ∧
    (Instr.accBad (.read 2 0x020)).wellFormed = true ∧
    (Instr.accBad (.read 2 0x3FC)).wellFormed = true ∧
    (Instr.accBad (.read 2 0x000)).wellFormed = true := by decide

/-- Supported writes are no ACC.BAD; each condition of 42_control.md R156 alone makes one. -/
theorem test_ill_formed_bad_write :
    (Instr.accBad (.write 2 0x000 1)).wellFormed = false ∧
    (Instr.accBad (.write 2 0x004 1)).wellFormed = false ∧
    (Instr.accBad (.write 2 0x008 1)).wellFormed = false ∧
    (Instr.accBad (.write 2 0x00C 1)).wellFormed = false ∧
    (Instr.accBad (.write 0 0x000 1)).wellFormed = true ∧
    (Instr.accBad (.write 2 0x00D 1)).wellFormed = true ∧
    (Instr.accBad (.write 2 0x3FC 1)).wellFormed = true ∧
    (Instr.accBad (.write 2 0x010 5)).wellFormed = true ∧
    (Instr.accBad (.write 2 0x7FC 7)).wellFormed = true := by decide

/-! ### Decoding words written out bit by bit: W, SZ, OFF, DATA (30_encoding.md R70, R78) -/

theorem test_decode_commands :
    decode 0b1_10_00000000000_00000000000000000000000000000000 = .nop ∧
    decode 0b1_10_00000000000_00000000000000000000000000000001 = .clear ∧
    decode 0b1_10_00000000000_00000000000000000000000000000010 = .solve ∧
    decode 0b1_10_00000000000_00000000000000000000000000000011 = .cmdBad 0 3 ∧
    decode 0b1_10_00000000000_00000000000000000000000100000001 = .cmdBad 1 1 := by decide

theorem test_decode_status :
    decode 0b0_10_00000000100_00000000000000000000000000000000 = .rdStatus ∧
    decode 0b1_10_00000000100_10000000000000000000000001111100 = .wrStatus 0x8000007C := by decide

theorem test_decode_samples :
    decode 0b1_10_00000001000_00000000000000000000000011111111 = .tally1 255 ∧
    decode 0b1_10_00000001000_00000000000000000000000100000000 = .tally1Bad 256 ∧
    decode 0b1_10_00000001000_10000000000000000000000000000000 = .tally1Bad 0x80000000 ∧
    decode 0b1_10_00000001100_00000001000000100000001100000100 = .tally4 4 3 2 1 := by decide

theorem test_decode_reads :
    decode 0b0_10_00000010000_00000000000000000000000000000000 = .rdCount ∧
    decode 0b0_10_00000010100_00000000000000000000000000000000 = .rdThresh ∧
    decode 0b0_10_00000011000_00000000000000000000000000000000 = .rdVarlo ∧
    decode 0b0_10_00000011100_00000000000000000000000000000000 = .rdVarhi ∧
    decode 0b0_10_10000000000_11111111111111111111111111111111 = .rdBin 0 ∧
    decode 0b0_10_10000101000_00000000000000000000000000000000 = .rdBin 10 ∧
    decode 0b0_10_11111111100_00000000000000000000000000000000 = .rdBin 255 := by decide

/-- A2, A8, A10, A11, A15 and A17 of 95_test_vectors.md. -/
theorem test_decode_bad_accesses :
    decode 0b0_10_00000001000_00000000000000000000000000000000 = .accBad (.read 2 0x008) ∧
    decode 0b1_10_10000000000_00000000000000000000000000000111 = .accBad (.write 2 0x400 7) ∧
    decode 0b0_10_01111111100_00000000000000000000000000000000 = .accBad (.read 2 0x3FC) ∧
    decode 0b0_10_00000000110_00000000000000000000000000000000 = .accBad (.read 2 0x006) ∧
    decode 0b0_11_00000000100_00000000000000000000000000000000 = .accBad (.read 3 0x004) ∧
    decode 0b1_01_00000001100_00000000000000000000000100000001 = .accBad (.write 1 0x00C 0x101) := by
  decide

/-- The table's numbering, and a number that is no transaction word (entry 9). -/
theorem test_decode_table_word :
    decodeTableWord 48 0x142800000000 = some (.rdBin 10) ∧
    decodeTableWord 48 0x400000000000 = none ∧
    decodeBits (2 ^ 46) = .error .notATransactionWord := ⟨rfl, rfl, rfl⟩

/-! ### One step each -/

/-- K1, and the transaction index moves on by one (00_scope.md R12). -/
theorem test_nop : (afterWord 0x300000000000 State.reset).map (fun t =>
    (t.N, statusWord t.STATUS, t.response, t.txIndex)) = some (0, 0, some 0, 1) := by decide

/-- H17. -/
theorem test_clear : (afterWord 0x300000000001 solvedV1).map (fun t =>
    (bin t 10, bin t 200, t.N, t.THRESH, t.VARMAX, statusWord t.STATUS)) =
    some (0, 0, 0, 0, 0, 0) := by decide

/-- H16. -/
theorem test_clear_keeps_errors :
    statusAfter 0x300000000001 (withErrors false false false true false 4 State.reset) =
    some 0x420 := by decide

/-- V9: two equal maxima, and an order of operations that shows in the last bit. -/
theorem test_solve_order_and_tie : (afterWord 0x300000000002 (hist [(50, 1), (100, 1), (150, 1)] 3)).map
    (fun t => (t.THRESH, t.VARMAX, statusWord t.STATUS)) =
    some (50, 0x409387FFFFFFFFFE, 1) := by decide +kernel

/-- V8: a running sum that ends above 1. -/
theorem test_solve_sum_above_one :
    (afterWord 0x300000000002 (hist [(32, 21), (163, 29), (200, 21), (204, 5)] 76)).map
    (fun t => (t.THRESH, t.VARMAX, statusWord t.STATUS)) =
    some (32, 0x40B14EC4959DACA3, 1) := by decide +kernel

/-- K3: 0x101 is not CLEAR. -/
theorem test_cmdBad : statusAfter 0x300000000101 State.reset = some 0x420 := by decide

/-- K15. -/
theorem test_rdStatus : answer 0x100400000000 solvedV1 = some 1 := by decide

/-- P3: EMPTY, RANGE, CMD and ACC set, CAUSE 1. -/
theorem test_rdStatus_errors :
    answer 0x100400000000 (withErrors true false true true true 1 State.reset) = some 0x174 := by
  decide

/-- K14, its first acknowledgement. -/
theorem test_wrStatus_keeps_cause :
    statusAfter 0x300400000004 (withErrors true false true false false 1 solvedV1) =
    some 0x111 := by decide

/-- K14, its second. -/
theorem test_wrStatus_last :
    statusAfter 0x300400000010 (withErrors false false true false false 1 solvedV1) =
    some 0x001 := by decide

/-- H13: the last sample but two. -/
theorem test_tally1_near_limit : (afterWord 0x300800000003 (hist [(3, 0xFFFFFFFC)] 0xFFFFFFFC)).map
    (fun t => (bin t 3, t.N, statusWord t.STATUS)) = some (0xFFFFFFFD, 0xFFFFFFFD, 0) := by
  decide

/-- H10: refused at COUNT_MAX. -/
theorem test_tally1_overflow : (afterWord 0x300800000003 (hist [(3, 0xFFFFFFFF)] 0xFFFFFFFF)).map
    (fun t => (bin t 3, t.N, statusWord t.STATUS)) = some (0xFFFFFFFF, 0xFFFFFFFF, 0x208) := by
  decide

/-- H3: bin 0 is not tallied. -/
theorem test_tally1Bad : (afterWord 0x300800000100 State.reset).map
    (fun t => (bin t 0, t.N, statusWord t.STATUS)) = some (0, 0, 0x310) := by decide

/-- H14: the count guard is not evaluated. -/
theorem test_tally1Bad_at_limit :
    statusAfter 0x300800000100 (hist [(3, 0xFFFFFFFF)] 0xFFFFFFFF) = some 0x310 := by decide

/-- H12: four equal lanes, up to COUNT_MAX. -/
theorem test_tally4_to_limit : (afterWord 0x300C03030303 (hist [(3, 0xFFFFFFFB)] 0xFFFFFFFB)).map
    (fun t => (bin t 3, t.N, statusWord t.STATUS)) = some (0xFFFFFFFF, 0xFFFFFFFF, 0) := by
  decide

/-- H11: refused whole. -/
theorem test_tally4_overflow : (afterWord 0x300C03030303 (hist [(3, 0xFFFFFFFC)] 0xFFFFFFFC)).map
    (fun t => (bin t 3, t.N, statusWord t.STATUS)) = some (0xFFFFFFFC, 0xFFFFFFFC, 0x208) := by
  decide

/-- H22. -/
theorem test_rdCount : answer 0x101000000000 (hist [(3, 0xFFFFFFFF)] 0xFFFFFFFF) =
    some 0xFFFFFFFF := by decide

/-- S16. -/
theorem test_rdThresh : answer 0x101400000000 solvedV1 = some 0x0000000A := by decide

/-- S17 and S18. -/
theorem test_rdVarlo_rdVarhi : answer 0x101800000000 solvedV1 = some 0 ∧
    answer 0x101C00000000 solvedV1 = some 0x40C1A080 := by decide

/-- P1's reads of bins 10 and 11. -/
theorem test_rdBin : answer 0x142800000000 solvedV1 = some 2 ∧
    answer 0x142C00000000 solvedV1 = some 0 := by decide

/-- A13. -/
theorem test_accBad_read : answer 0x001000000000 solvedV1 = some 0 ∧
    statusAfter 0x001000000000 State.reset = some 0x540 := by decide

/-- A8: a write to BIN[0] leaves H[0]. -/
theorem test_accBad_write : (afterWord 0x340000000007 State.reset).map
    (fun t => (bin t 0, statusWord t.STATUS)) = some (0, 0x540) := by decide

/-! ### Operations of binary64 (95_test_vectors.md, the details of V7 to V9) -/

/-- V9: w = 1/3 at index 50, and at index 100 d = 1 - w and den = w * d for w = 0.6666666666666666. -/
theorem test_f64_div_sub_mul :
    f64Div (f64OfNat 1) (f64OfNat 3) = 0x3FD5555555555555 ∧
    f64Sub f64One 0x3FE5555555555555 = 0x3FD5555555555556 ∧
    f64Mul 0x3FE5555555555555 0x3FD5555555555556 = 0x3FCC71C71C71C71D := by decide +kernel

/-- V7: ten times 1/10 is 0.9999999999999999. -/
theorem test_f64_add_rounds :
    (List.replicate 10 (f64Div (f64OfNat 1) (f64OfNat 10))).foldl f64Add f64Zero =
      0x3FEFFFFFFFFFFFFF := by decide +kernel

/-- R132: an exact zero difference is +0.0, and the comparison with 1 is strict. -/
theorem test_f64_sub_lt :
    f64Sub f64One f64One = f64Zero ∧ f64Lt f64One f64One = false ∧ f64Lt f64Zero f64One = true := by
  decide +kernel

/-! ### Witnesses: for each statement with hypotheses, inputs that meet them

One for each clause, at the boundary of its range. A statement without hypotheses has none. -/

/-- A next state that is what `f` says, by evaluation. -/
def nextIs (r : Result) (f : State → Bool) : Bool :=
  match r with
  | .next t => f t
  | .fault _ => false
  | .refused _ => false

theorem nextIs_elim {r : Result} {f : State → Bool} (h : nextIs r f = true) :
    ∃ t, r = .next t ∧ f t = true := by
  cases r with
  | next t => exact ⟨t, rfl, h⟩
  | fault x => cases h
  | refused x => cases h

/-- A request of the T word `t`, pending in reset. -/
def asked (t : TWord) : State := withPending [.request t] State.reset

theorem witness_DecodeEncodeRoundTrip :
    (Instr.cmdBad 0 3).wellFormed = true ∧ (Instr.cmdBad 1 0).wellFormed = true ∧
    (Instr.cmdBad 0xFFFFFF 0xFF).wellFormed = true ∧ (Instr.tally1Bad 256).wellFormed = true ∧
    (Instr.tally1Bad 0xFFFFFFFF).wellFormed = true ∧ (Instr.rdBin 255).wellFormed = true ∧
    (Instr.accBad (.read 2 0x3FF)).wellFormed = true ∧
    (Instr.accBad (.write 3 0x7FF 0xFFFFFFFF)).wellFormed = true := by decide

theorem witness_SampleOneDecodes :
    (255#32).toNat ≤ 255 ∧ decode (mkT true 2 0x008 255) = .tally1 255 ∧
    255 < (256#32).toNat ∧ decode (mkT true 2 0x008 256) = .tally1Bad 256 := by decide

theorem witness_BinOffsetsDecode :
    (0x400#11).getLsbD 10 = true ∧ (0x400#11).extractLsb' 0 2 = 0 ∧
    decode (mkT false 2 0x400 0) = .rdBin 0 ∧
    (0x7FC#11).getLsbD 10 = true ∧ (0x7FC#11).extractLsb' 0 2 = 0 ∧
    decode (mkT false 2 0x7FC 0) = .rdBin 255 := by decide

/-- A13 by its size, A11 by its offset. -/
theorem witness_OnlyAlignedWordsAreSupported :
    sizeField 0x001000000000 ≠ 2 ∧ sizeField 0x100600000000 = 2 ∧
    (offField 0x100600000000).extractLsb' 0 2 ≠ 0 := by decide

/-- BASE is opaque, so the only address known to lie outside the window lies above it. -/
theorem witness_WindowForwarding :
    (Config.base ≤ Config.base ∧ Config.base ≤ Config.base + 2047) ∧
    (Config.base ≤ Config.base + 2047 ∧ Config.base + 2047 ≤ Config.base + 2047) ∧
    (Config.base + 2048 < Config.base ∨ Config.base + 2047 < Config.base + 2048) := by omega

theorem witness_StepPerformsDecodedTransaction :
    (asked 0x300800000007).pending = .request 0x300800000007 :: [] ∧
    (Instr.tally1 7).wellFormed = true ∧
    (asked 0x300800000007).pending = .request (encode (.tally1 7)) :: [] := by decide

theorem witness_ResetIsTheOnlyOtherEvent :
    (withPending [.reset, .request 0] solvedV1).pending = .reset :: [.request 0] ∧
    solvedV1.pending = [] := by decide

/-- R-2: a SOLVE without its response. -/
theorem witness_ResetDiscardsOutstandingTransaction :
    (withPending [.resetDuring 0x300000000002] solvedV1).pending =
      .resetDuring 0x300000000002 :: [] := by decide

theorem witness_WritesAndRefusedReadsRespondZero :
    isWrite 0x300000000001 = true ∧ isWrite 0x001000000000 = false ∧
    decode 0x001000000000 = .accBad (.read 0 0x010) := by decide

/-- The last tally that fits, and the first that does not. -/
theorem witness_TallyOneSample :
    (hist [(3, 0xFFFFFFFE)] 0xFFFFFFFE).N ≠ 0xFFFFFFFF ∧
    (hist [(3, 0xFFFFFFFF)] 0xFFFFFFFF).N = 0xFFFFFFFF := by decide

/-- The last TALLY4 that fits, and the first that does not. -/
theorem witness_TallyFourSamples :
    (hist [(3, 0xFFFFFFFB)] 0xFFFFFFFB).N.toNat < 0xFFFFFFFC ∧
    0xFFFFFFFC ≤ (hist [(3, 0xFFFFFFFC)] 0xFFFFFFFC).N.toNat := by decide

theorem witness_OutOfRangeSampleIsRefused : 255 < (256#32).toNat := by decide

/-- A12 and A14. -/
theorem witness_CountAndBinReads :
    (0x400 ≤ (0x402#11).toNat ∧ (0x402#11).extractLsb' 0 2 ≠ 0) ∧
    (0x400 ≤ (0x400#11).toNat ∧ (1#2 ≠ 2)) := by decide

/-- Five samples, grouped and ordered differently, that fill N to COUNT_MAX. -/
theorem witness_TallyOrderIndependence :
    (allSamples [.four 1 2 3 4, .one 5]).Perm
      (allSamples [.one 5, .one 4, .one 3, .one 2, .one 1]) ∧
    (hist [(0, 0xFFFFFFFA)] 0xFFFFFFFA).N.toNat + (allSamples [.four 1 2 3 4, .one 5]).length =
      0xFFFFFFFF ∧
    (∃ t, AllTallied [.four 1 2 3 4, .one 5] (hist [(0, 0xFFFFFFFA)] 0xFFFFFFFA) t) ∧
    ∃ u, AllTallied [.one 5, .one 4, .one 3, .one 2, .one 1] (hist [(0, 0xFFFFFFFA)] 0xFFFFFFFA) u :=
  ⟨by decide, by decide,
    ⟨_, by decide, _, exec_eq _ _, by decide, _, exec_eq _ _, rfl⟩,
    ⟨_, by decide, _, exec_eq _ _, by decide, _, exec_eq _ _, by decide, _, exec_eq _ _, by decide, _,
      exec_eq _ _, by decide, _, exec_eq _ _, rfl⟩⟩

theorem witness_HistogramCountsSamples :
    (allSamples [.four 10 200 10 200, .one 255]).length ≤ 0xFFFFFFFF := by decide

theorem witness_UniformImageHistogram :
    1 ≤ 5 ∧ 5 ≤ 0xFFFFFFFF ∧ allSamples [.four 7 7 7 7, .one 7] = List.replicate 5 7 ∧
    allSamples [.one 0] = List.replicate 1 0 := by decide

theorem conserved_of_sum {s : State} {n : Nat} (h : s.N.toNat = n) (k : binSum s.H = n) :
    Conserved s := h.trans k.symm

theorem conserved_V1 : Conserved solvedV1 := conserved_of_sum (n := 4) (by decide) (by decide +kernel)

theorem conserved_V2 : Conserved solvedV2 := conserved_of_sum (n := 5) (by decide) (by decide +kernel)

theorem witness_BinsChangeOnlyByTallies :
    Conserved solvedV1 ∧ Instr.tally4 1 1 2 255 ≠ .clear ∧
    (0x010#11 = 0x010 ∨ 0x400 ≤ (0x010#11).toNat) ∧ (0x400#11 = 0x010 ∨ 0x400 ≤ (0x400#11).toNat) :=
  ⟨conserved_V1, by decide, by decide, by decide⟩

theorem witness_SolveOfEmptyHistogram : State.reset.N = 0 := rfl

theorem witness_SolveComputesThreshold : solvedV1.N ≠ 0 ∧ State.reset.N = 0 := by decide

/-- A solve from V1, and one more from the state after errors and reads. -/
theorem witness_SolveIsRepeatable :
    solvedV1.N ≠ 0 ∧ solvedV1.H = (withErrors true false false false false 1 solvedV1).H ∧
    solvedV1.N = (withErrors true false false false false 1 solvedV1).N ∧
    (∃ t t', exec .solve solvedV1 = .next t ∧
      exec .solve (withErrors true false false false false 1 solvedV1) = .next t') ∧
    (∀ i ∈ [Instr.cmdBad 0 3, .rdThresh, .wrStatus 0x7C], i ≠ .clear ∧ offered i = []) ∧
    ∃ t u v, exec .solve solvedV1 = .next t ∧
      execAll [.cmdBad 0 3, .rdThresh, .wrStatus 0x7C] t = .next u ∧ exec .solve u = .next v :=
  ⟨by decide, rfl, rfl, ⟨_, _, exec_eq _ _, exec_eq _ _⟩, by decide,
    ⟨_, after (.wrStatus 0x7C) (after .rdThresh (after (.cmdBad 0 3) (after .solve solvedV1))), _,
      exec_eq _ _, by simp only [execAll, exec_eq], exec_eq _ _⟩⟩

/-- One bin not zero (V2), and two of them (V1). -/
theorem witness_DegenerateExactlyForOneBin :
    (Conserved solvedV2 ∧ solvedV2.N ≠ 0 ∧ bin solvedV2 7 ≠ 0 ∧ ∀ v, v ≠ 7 → bin solvedV2 v = 0) ∧
    Conserved solvedV1 ∧ solvedV1.N ≠ 0 ∧ bin solvedV1 10 ≠ 0 ∧ bin solvedV1 200 ≠ 0 ∧
    (10 : Byte) ≠ 200 ∧ ∀ v : Byte, v.toNat < (10 : Byte).toNat → bin solvedV1 v = 0 :=
  ⟨⟨conserved_V2, by decide, by decide, by decide⟩, conserved_V1, by decide, by decide, by decide,
    by decide, by decide⟩

/-- S1: a solve of V1 commits THRESH 10 and VARMAX 9025.0, not degenerate. -/
theorem solve_V1 : ∃ t, exec .solve solvedV1 = .next t ∧
    (decide (t.THRESH = 10) && decide (t.VARMAX = 0x40C1A08000000000) && !t.STATUS.DEGEN) = true :=
  nextIs_elim (f := fun t =>
    decide (t.THRESH = 10) && decide (t.VARMAX = 0x40C1A08000000000) && !t.STATUS.DEGEN)
    (by decide +kernel)

theorem witness_ThresholdMaximisesVariance : solvedV1.N ≠ 0 ∧ refCandidate solvedV1 10 = true ∧
    ∃ t, exec .solve solvedV1 = .next t ∧ t.VARMAX ≠ 0 := by
  obtain ⟨t, h, f⟩ := solve_V1
  simp only [Bool.and_eq_true, decide_eq_true_eq] at f
  exact ⟨by decide, by decide +kernel, t, h, by rw [f.1.2]; decide⟩

theorem witness_ThresholdIsCandidate : Conserved solvedV1 ∧ solvedV1.N ≠ 0 ∧
    ∃ t, exec .solve solvedV1 = .next t ∧ t.STATUS.DEGEN = false := by
  obtain ⟨t, h, f⟩ := solve_V1
  simp only [Bool.and_eq_true, Bool.not_eq_true'] at f
  exact ⟨conserved_V1, by decide, t, h, f.2⟩

/-- The first candidate of V1. -/
theorem witness_SolveStaysFinite : Conserved solvedV1 ∧ solvedV1.N ≠ 0 ∧ 10 < 256 ∧
    refCandidate solvedV1 10 = true := ⟨conserved_V1, by decide, by decide, by decide +kernel⟩

/-- The invariant holds of V1 after its solve, with VALID set. -/
theorem inv_V1 : Inv solvedV1 where
  conserved := conserved_V1
  current := fun _ => ⟨by decide, by decide +kernel, by decide +kernel, by decide +kernel⟩
  degenValid := by decide
  degenZero := by decide
  causeSticky := by decide
  causeLegal := by decide
  varmaxSign := by decide
  emptyZero := by decide

theorem witness_VarianceReads : Inv solvedV1 ∧ solvedV1.VARMAX ≠ 0 := ⟨inv_V1, by decide⟩

theorem witness_SplitVarianceReadsAgree :
    (∀ i ∈ [Instr.tally1 0, .rdStatus], i ≠ .solve ∧ i ≠ .clear) ∧
    ∃ t u v, exec .rdVarlo solvedV1 = .next t ∧ execAll [.tally1 0, .rdStatus] t = .next u ∧
      exec .rdVarhi u = .next v := ⟨by decide, ⟨_, _, _, rfl, rfl, rfl⟩⟩

theorem witness_ReservedCommandIsRefused : (3#32 ≠ 0 ∧ 3#32 ≠ 1 ∧ 3#32 ≠ 2) ∧
    (0x101#32 ≠ 0 ∧ 0x101#32 ≠ 1 ∧ 0x101#32 ≠ 2) := by decide

/-- K9: the last error acknowledged. K7: one of two. -/
theorem witness_AcknowledgeClearsErrors :
    (0#2 ≠ 2 ∧ (0x006#11).extractLsb' 0 2 ≠ 0) ∧
    (∃ t, exec (.wrStatus 0x30) (withErrors false false true true false 4 State.reset) = .next t ∧
      ∀ e, stickyBit e t.STATUS = false) ∧
    ∃ t, exec (.wrStatus 0x20) (withErrors false false true true false 4 State.reset) = .next t ∧
      ∃ e, stickyBit e t.STATUS = true :=
  ⟨by decide, ⟨_, rfl, fun e => by cases e <;> decide⟩, ⟨_, rfl, .range, by decide⟩⟩

/-- Each of the five conditions alone. -/
theorem witness_UnsupportedAccessIsRefused :
    sizeField 0x180400000000 ≠ 2 ∧ (offField 0x100600000000).extractLsb' 0 2 ≠ 0 ∧
    (0x020 ≤ (offField 0x102000000000).toNat ∧ (offField 0x102000000000).toNat ≤ 0x3FF) ∧
    (0x020 ≤ (offField 0x13FC00000000).toNat ∧ (offField 0x13FC00000000).toNat ≤ 0x3FF) ∧
    (isWrite 0x100C00000000 = false ∧ offField 0x100C00000000 = 0x00C) ∧
    (isWrite 0x301000000005 = true ∧ offField 0x301000000005 = 0x010) ∧
    (isWrite 0x340000000007 = true ∧ 0x400 ≤ (offField 0x340000000007).toNat) := by decide

/-- One operation for each error class, at its boundary, and three that raise none there. -/
theorem witness_ErrorsArePrecise :
    raised .solve State.reset = some .empty ∧
    raised (.tally1 3) (hist [(3, 0xFFFFFFFF)] 0xFFFFFFFF) = some .ovf ∧
    raised (.tally4 3 3 3 3) (hist [(3, 0xFFFFFFFC)] 0xFFFFFFFC) = some .ovf ∧
    raised (.tally1Bad 256) State.reset = some .range ∧
    raised (.cmdBad 0 3) State.reset = some .cmd ∧
    raised (.accBad (.read 0 0x010)) State.reset = some .acc ∧
    raised .solve (hist [(3, 1)] 1) = none ∧
    raised (.tally1 3) (hist [(3, 0xFFFFFFFE)] 0xFFFFFFFE) = none ∧
    raised (.tally4 3 3 3 3) (hist [(3, 0xFFFFFFFB)] 0xFFFFFFFB) = none ∧
    ∀ m, Instr.tally1 3 ≠ .wrStatus m := by
  refine ⟨by decide, by decide, by decide, rfl, rfl, rfl, by decide, by decide, by decide, ?_⟩
  intro m h; cases h

/-- K7, and two states that differ in an error only. -/
theorem witness_StickyErrorsPersistAndBlockNothing :
    (∃ t, exec (.wrStatus 0x20) (withErrors false false true true false 4 State.reset) = .next t ∧
      stickyBit .cmd (withErrors false false true true false 4 State.reset).STATUS = true ∧
      stickyBit .cmd t.STATUS = false) ∧
    (∃ t, exec (.cmdBad 0 3) State.reset = .next t ∧ stickyBit .cmd State.reset.STATUS = false ∧
      stickyBit .cmd t.STATUS = true) ∧
    sameButErrors State.reset (withErrors false false true true false 4 State.reset) ∧
    raised (.cmdBad 0 3) State.reset = some .cmd :=
  ⟨⟨_, rfl, rfl, by decide⟩, ⟨_, rfl, rfl, rfl⟩, ⟨rfl, rfl, rfl, rfl, rfl, rfl, rfl, rfl⟩, rfl⟩

/-- A tally changes N and clears VALID, and a CLEAR changes THRESH. -/
theorem witness_RegistersHaveOnlyTheirWriters :
    (∃ t, exec (.tally1 3) solvedV1 = .next t ∧ t.N ≠ solvedV1.N ∧
      t.STATUS.VALID ≠ solvedV1.STATUS.VALID) ∧
    ∃ t, exec .clear solvedV1 = .next t ∧ t.THRESH ≠ solvedV1.THRESH :=
  ⟨⟨_, rfl, by decide, by decide⟩, ⟨_, rfl, by decide⟩⟩

theorem witness_SupportedReadsChangeNothing :
    isWrite 0x101000000000 = false ∧ decode 0x101000000000 = .rdCount ∧
    isWrite 0x001000000000 = false ∧ decode 0x001000000000 = .accBad (.read 0 0x010) := by decide

theorem witness_StepKeepsInvariant : Inv solvedV1 ∧ ∃ t, step solvedV1 = .next t := ⟨inv_V1, _, rfl⟩

/-- Degenerate and so valid (V2, S2). -/
theorem witness_ReachableStatusIsSound : solvedV2.STATUS.DEGEN = true := rfl

/-- VALID with the invariant, each kind of operation that clears VALID, and two that leave it. -/
theorem witness_ValidMeansCurrentResult :
    Inv solvedV1 ∧ solvedV1.STATUS.VALID = true ∧
    (∃ t, exec (.tally1 3) solvedV1 = .next t ∧ t.N ≠ solvedV1.N) ∧
    (offered (.tally1 3) ≠ [] ∧ raised (.tally1 3) solvedV1 = none) ∧
    raised .solve State.reset ≠ none ∧
    (∃ t, exec .rdStatus solvedV1 = .next t ∧ offered .rdStatus = []) ∧
    raised (.tally1 3) (hist [(3, 0xFFFFFFFF)] 0xFFFFFFFF) ≠ none :=
  ⟨inv_V1, rfl, ⟨_, rfl, by decide⟩, by decide, by decide, ⟨_, rfl, rfl⟩, by decide⟩

theorem witness_IntegerConversionIsExact : 2 ^ 53 - 1 < 2 ^ 53 := by decide

/-- Finite operands, the divisor not zero. -/
theorem witness_ArithmeticRoundsToNearestEven :
    finiteValue f64One = some (2 ^ 1074) ∧ (2 ^ 1074 : Int) ≠ 0 := by decide +kernel

theorem witness_ComparisonIsOrdered :
    finiteValue f64Zero = some 0 ∧ finiteValue f64One = some (2 ^ 1074) ∧
    unpack 0x7FF8000000000000 = .nan := by decide +kernel

/-- A NaN; finite operands with sum 0, with another sum and with product 0; infinities. -/
theorem witness_ArithmeticSignsAndSpecialOperands :
    unpack 0x7FF8000000000000 = .nan ∧
    (finiteValue f64One = some (2 ^ 1074) ∧ finiteValue 0xBFF0000000000000 = some (-2 ^ 1074)) ∧
    (finiteValue f64Zero = some 0 ∧ finiteValue 0x8000000000000000 = some 0) ∧
    unpack 0x7FF0000000000000 = .inf false ∧ unpack 0xFFF0000000000000 = .inf true := by
  decide +kernel

end Sys2Proof.Tests
end

/-! ### Decoding an encoded instruction (30_encoding.md R71, R78) -/

section
namespace Sys2Proof

/-- An offset in the row of RD.BIN is aligned and has bit 10 set (30_encoding.md R76). -/
theorem aligned_of_and_eq_binRow {off : Offset} (h : off &&& 0x403 = 0x400) :
    off.toNat % 4 = 0 ∧ 0x400 ≤ off.toNat := by
  have hn : off.toNat &&& 0x403 = 0x400 := by simpa using congrArg BitVec.toNat h
  have hmod : off.toNat % 2 ^ 2 &&& 0x403 % 2 ^ 2 = 0 := by rw [← Nat.and_mod_two_pow, hn]
  have hand := Nat.and_two_pow_sub_one_eq_mod (off.toNat % 2 ^ 2) 2
  have hle : off.toNat &&& 0x403 ≤ off.toNat := Nat.and_le_left
  simp only [Nat.reducePow, Nat.reduceMod, Nat.reduceSub] at hmod hand
  omega

/-- The two fields of a command word come back from it (30_encoding.md R72). -/
theorem command_fields (rsv : BitVec 24) (op : Byte) {c : Word}
    (h : (rsv ++ op : BitVec (24 + 8)) = c) : c.extractLsb' 8 24 = rsv ∧
    c.extractLsb' 0 8 = op := by
  subst h
  exact ⟨BitVec.extractLsb'_append_eq_left, BitVec.extractLsb'_append_eq_right⟩

/-- A reserved command word is none of the words of NOP, CLEAR and SOLVE (30_encoding.md R73). -/
theorem reservedCommand_word {rsv : BitVec 24} {op : Byte} (h : reservedCommand rsv op = true) :
    (rsv ++ op : BitVec (24 + 8)) ≠ 0 ∧ (rsv ++ op : BitVec (24 + 8)) ≠ 1 ∧
    (rsv ++ op : BitVec (24 + 8)) ≠ 2 := by
  refine ⟨?_, ?_, ?_⟩ <;> intro e <;> obtain ⟨rfl, rfl⟩ := command_fields rsv op e <;>
    exact absurd h (by decide)

theorem decode_encode_cmdBad {rsv : BitVec 24} {op : Byte} (h : reservedCommand rsv op = true) :
    decode (encode (.cmdBad rsv op)) = .cmdBad rsv op := by
  obtain ⟨h0, h1, h2⟩ := reservedCommand_word h
  obtain ⟨hr, ho⟩ := command_fields rsv op rfl
  simp only [encode, writeT, decode_mkT, h0, h1, h2, hr, ho, and_false, and_self, if_false, if_true]

theorem decode_encode_tally1 (x : Byte) : decode (encode (.tally1 x)) = .tally1 x := by
  have hx : x.setWidth 32 &&& 0xFFFFFF00#32 = 0#32 := sample_and_high x
  have hlow : (x.setWidth 32).extractLsb' 0 8 = x := by
    ext i hi; simp [hi, show i < 32 by omega]
  simp [encode, writeT, decode_mkT, hx, hlow]

theorem decode_encode_tally1Bad {data : Word} (h : outOfRange data = true) :
    decode (encode (.tally1Bad data)) = .tally1Bad data := by
  have hd : 255 < data.toNat := of_decide_eq_true h
  simpa [encode, writeT, decode_mkT] using mt (and_high_eq_zero data).mp (by omega)

/-- The four lanes of a SAMPLE4 word come back from it (30_encoding.md R75). -/
theorem sample4_lanes (x0 x1 x2 x3 : Byte) {d : Word}
    (h : (x3 ++ x2 ++ x1 ++ x0 : BitVec (8 + 8 + 8 + 8)) = d) :
    d.extractLsb' 0 8 = x0 ∧ d.extractLsb' 8 8 = x1 ∧ d.extractLsb' 16 8 = x2 ∧
    d.extractLsb' 24 8 = x3 := by
  subst h
  refine ⟨?_, ?_, ?_, ?_⟩ <;> apply BitVec.eq_of_getLsbD_eq <;> intro i hi <;>
    simp only [BitVec.getLsbD_extractLsb', BitVec.getLsbD_append]
  · simp [hi]
  · simp [hi]
  · simp [hi, show ¬ 16 + i < 8 by omega, show ¬ 16 + i - 8 < 8 by omega,
      show 16 + i - 8 - 8 = i by omega]
  · simp [hi, show ¬ 24 + i < 8 by omega, show ¬ 24 + i - 8 < 8 by omega,
      show ¬ 24 + i - 8 - 8 < 8 by omega, show 24 + i - 8 - 8 - 8 = i by omega]

theorem decode_encode_tally4 (x0 x1 x2 x3 : Byte) :
    decode (encode (.tally4 x0 x1 x2 x3)) = .tally4 x0 x1 x2 x3 := by
  obtain ⟨h0, h1, h2, h3⟩ := sample4_lanes x0 x1 x2 x3 rfl
  simp [encode, writeT, decode_mkT, h0, h1, h2, h3]

theorem decode_encode_rdBin (v : Byte) : decode (encode (.rdBin v)) = .rdBin v := by
  revert v; decide

/-- An unsupported 32-bit read is at the offset of no readable register (42_control.md R156). -/
theorem unsupported_read_offset {off : Offset} (h : (BadAccess.read 2 off).unsupported = true) :
    off ≠ 0x004 ∧ off ≠ 0x010 ∧ off ≠ 0x014 ∧ off ≠ 0x018 ∧ off ≠ 0x01C ∧
    off &&& 0x403 ≠ 0x400 := by
  refine ⟨?_, ?_, ?_, ?_, ?_, fun hbin => ?_⟩
  case refine_6 =>
    obtain ⟨hal, hge⟩ := aligned_of_and_eq_binRow hbin
    have hw : writeOnly off = false := by
      simp only [writeOnly, Bool.or_eq_false_iff, decide_eq_false_iff_not]
      refine ⟨⟨?_, ?_⟩, ?_⟩ <;> rintro rfl <;> exact absurd hge (by decide)
    simp [BadAccess.unsupported, misaligned, reservedOffset, hw, hal] at h
    omega
  all_goals rintro rfl; exact absurd h (by decide)

theorem decode_encode_badRead {sz : BitVec 2} {off : Offset}
    (h : (BadAccess.read sz off).unsupported = true) :
    decode (encode (.accBad (.read sz off))) = .accBad (.read sz off) := by
  by_cases hsz : sz = 2
  · subst hsz
    obtain ⟨h4, h10, h14, h18, h1C, hbin⟩ := unsupported_read_offset h
    simp only [encode, decode_mkT, h4, h10, h14, h18, h1C, hbin, and_false, if_false,
      Bool.false_eq_true, false_and]
  · simp only [encode, decode_mkT, hsz, false_and, and_false, if_false, Bool.false_eq_true]

/-- An unsupported 32-bit write is at the offset of no writable register (42_control.md R156). -/
theorem unsupported_write_offset {off : Offset} {data : Word}
    (h : (BadAccess.write 2 off data).unsupported = true) :
    off ≠ 0x000 ∧ off ≠ 0x004 ∧ off ≠ 0x008 ∧ off ≠ 0x00C := by
  have hoff : (misaligned off || reservedOffset off || readOnly off) = true := h
  refine ⟨?_, ?_, ?_, ?_⟩ <;> rintro rfl <;> exact absurd hoff (by decide)

theorem decode_encode_badWrite {sz : BitVec 2} {off : Offset} {data : Word}
    (h : (BadAccess.write sz off data).unsupported = true) :
    decode (encode (.accBad (.write sz off data))) = .accBad (.write sz off data) := by
  by_cases hsz : sz = 2
  · subst hsz
    obtain ⟨h0, h4, h8, hC⟩ := unsupported_write_offset h
    simp only [encode, decode_mkT, h0, h4, h8, hC, false_and, and_false, if_false, if_true,
      Bool.true_eq_false]
  · simp only [encode, decode_mkT, hsz, false_and, and_false, if_false, if_true]

/-- The encoding of a well-formed instruction decodes to it. -/
theorem decode_encode (i : Instr) (h : i.wellFormed = true) : decode (encode i) = i := by
  cases i with
  | nop => decide
  | clear => decide
  | solve => decide
  | cmdBad rsv op => exact decode_encode_cmdBad h
  | rdStatus => decide
  | wrStatus m => simp [encode, writeT, decode_mkT]
  | tally1 x => exact decode_encode_tally1 x
  | tally1Bad data => exact decode_encode_tally1Bad h
  | tally4 x0 x1 x2 x3 => exact decode_encode_tally4 x0 x1 x2 x3
  | rdCount => decide
  | rdThresh => decide
  | rdVarlo => decide
  | rdVarhi => decide
  | rdBin v => exact decode_encode_rdBin v
  | accBad a =>
    cases a with
    | read sz off => exact decode_encode_badRead h
    | write sz off data => exact decode_encode_badWrite h

end Sys2Proof
end

/-! ### Steps and the transaction index (00_scope.md R6, R12) -/

section
namespace Sys2Proof.Machine

/-- Settles O13: the first pending request is performed as what it decodes to, and `decode_encode`
gives the instruction of an encoding. -/
theorem stepPerformsDecodedTransaction : Obligations.StepPerformsDecodedTransaction := by
  intro s es
  refine ⟨fun t h => step_request h, fun i hi h => ?_⟩
  rw [step_request h, decode_encode i hi, withPending]

/-- Settles O17: every instruction answers `after`, whose index and pending events are known. -/
theorem everyOperationAdvancesByOne : Obligations.EveryOperationAdvancesByOne := fun i s =>
  ⟨after i s, exec_eq i s, after_txIndex i s, after_pending i s⟩

end Sys2Proof.Machine
end

section
namespace Sys2Proof.Machine

/-! ### Rounding a magnitude: significand, shift and encoding -/

/-- The significand of a rounded magnitude, in units of its last place `2 ^ roundShift n d`. -/
def significand (n d : Nat) : Nat := divTiesToEven n (d * 2 ^ roundShift n d)

theorem roundMag_eq (n d : Nat) :
    roundMag n d = min infMag (2 ^ 52 * roundShift n d + significand n d) := rfl

/-- A ratio of integers that `roundShift` measures: what `floorLog2 12` takes the logarithm of. -/
structure Ratio (n d : Nat) : Prop where
  pos : 0 < d
  lt : n < d * 2 ^ 2 ^ 12

theorem roundShift_eq {n d : Nat} (hr : Ratio n d) :
    roundShift n d = Nat.log2 (n / d) - 52 := by
  rw [roundShift, floorLog2_eq_log2 12 _ (Nat.div_lt_of_lt_mul hr.lt)]

/-- The exact magnitude is below 2^53 last places. -/
theorem lt_mul_roundShift {n d : Nat} (hr : Ratio n d) :
    n < 2 ^ 53 * (d * 2 ^ roundShift n d) := by
  have hlog : n / d < 2 ^ (53 + roundShift n d) :=
    Nat.lt_log2_self.trans_le (Nat.pow_le_pow_right (by omega) (by rw [roundShift_eq hr]; omega))
  calc n < d * 2 ^ (53 + roundShift n d) := by rwa [Nat.mul_comm, ← Nat.div_lt_iff_lt_mul hr.pos]
    _ = 2 ^ 53 * (d * 2 ^ roundShift n d) := by rw [Nat.pow_add]; ring

/-- Above the lowest binade the exact magnitude is at least 2^52 last places. -/
theorem mul_roundShift_le {n d : Nat} (hr : Ratio n d) (h : roundShift n d ≠ 0) :
    2 ^ 52 * (d * 2 ^ roundShift n d) ≤ n := by
  rw [roundShift_eq hr] at h ⊢
  have hq : n / d ≠ 0 := by rintro e; simp [e] at h
  have hlog : 2 ^ (52 + (Nat.log2 (n / d) - 52)) ≤ n / d := by
    rw [Nat.add_sub_cancel' (by omega)]
    exact Nat.log2_self_le hq
  calc 2 ^ 52 * (d * 2 ^ (Nat.log2 (n / d) - 52)) = d * 2 ^ (52 + (Nat.log2 (n / d) - 52)) := by
        rw [Nat.pow_add]; ring
    _ ≤ d * (n / d) := Nat.mul_le_mul_left d hlog
    _ ≤ n := Nat.mul_div_le n d

theorem lastPlace_pos {d : Nat} (hd : 0 < d) (sh : Nat) : 0 < d * 2 ^ sh := by positivity

theorem significand_le {n d : Nat} (hr : Ratio n d) :
    significand n d ≤ 2 ^ 53 := by
  have hD := lastPlace_pos hr.pos (roundShift n d)
  obtain ⟨-, hup, -⟩ := divTiesToEven_spec n _ hD
  have hlt := lt_mul_roundShift hr
  have : 2 * significand n d < 2 * 2 ^ 53 + 1 := by
    refine Nat.lt_of_mul_lt_mul_right (a := d * 2 ^ roundShift n d) (hup.trans_lt ?_)
    linarith
  omega

theorem le_significand {n d : Nat} (hr : Ratio n d) (h : roundShift n d ≠ 0) :
    2 ^ 52 ≤ significand n d := by
  have hD := lastPlace_pos hr.pos (roundShift n d)
  obtain ⟨hlo, -, -⟩ := divTiesToEven_spec n _ hD
  have hle := mul_roundShift_le hr h
  have : 2 * 2 ^ 52 ≤ 2 * significand n d + 1 := by
    refine Nat.le_of_mul_le_mul_right (le_trans ?_ hlo) hD
    linarith
  omega

/-- The magnitude of an encoding with biased exponent `ex` and fraction `fr`. -/
theorem unitsOf_fields {ex fr : Nat} (h : fr < 2 ^ 52) :
    unitsOf (2 ^ 52 * ex + fr) = if ex = 0 then fr else (2 ^ 52 + fr) * 2 ^ (ex - 1) := by
  have hq : (2 ^ 52 * ex + fr) / 2 ^ 52 = ex := by omega
  have hr : (2 ^ 52 * ex + fr) % 2 ^ 52 = fr := by omega
  simp only [unitsOf, hq, hr]

/-- `2^52 * sh + m` encodes `m` last places of `2 ^ sh` units, for a subnormal `m` and for one that
rounding has carried into the next binade too. -/
theorem unitsOf_shifted {sh m : Nat} (hm : m ≤ 2 ^ 53) (h : sh ≠ 0 → 2 ^ 52 ≤ m) :
    unitsOf (2 ^ 52 * sh + m) = m * 2 ^ sh := by
  rcases Nat.lt_or_ge m (2 ^ 52) with hsub | hnorm
  · have hsh : sh = 0 := by omega
    rw [unitsOf_fields hsub, if_pos hsh, hsh, pow_zero, Nat.mul_one]
  · rcases Nat.lt_or_ge m (2 ^ 53) with hlt | hcarry
    · have e : 2 ^ 52 * sh + m = 2 ^ 52 * (sh + 1) + (m - 2 ^ 52) := by omega
      rw [e, unitsOf_fields (by omega), if_neg (by omega), Nat.add_sub_cancel,
        Nat.add_sub_cancel' hnorm]
    · have e : 2 ^ 52 * sh + m = 2 ^ 52 * (sh + 2) + 0 := by omega
      have hm' : m = 2 ^ 53 := by omega
      rw [e, unitsOf_fields (by omega), if_neg (by omega), hm']
      simp only [Nat.add_zero, Nat.add_succ_sub_one, Nat.pow_succ]
      ring

/-- The rounded magnitude in units, before any overflow. -/
def roundedUnits (n d : Nat) : Nat := significand n d * 2 ^ roundShift n d

theorem unitsOf_rounded {n d : Nat} (hr : Ratio n d) :
    unitsOf (2 ^ 52 * roundShift n d + significand n d) = roundedUnits n d :=
  unitsOf_shifted (significand_le hr) (le_significand hr)

/-- The magnitude of an encoding is below the end of its binade. -/
theorem unitsOf_lt_binade (mag : Nat) : unitsOf mag < 2 ^ 53 * 2 ^ (mag / 2 ^ 52 - 1) := by
  have hfr : mag % 2 ^ 52 < 2 ^ 52 := Nat.mod_lt _ (by positivity)
  have hone : 1 ≤ 2 ^ (mag / 2 ^ 52 - 1) := Nat.one_le_two_pow
  have hfields := unitsOf_fields (ex := mag / 2 ^ 52) hfr
  rw [Nat.div_add_mod] at hfields
  rw [hfields]
  split
  · omega
  · exact Nat.mul_lt_mul_of_pos_right (by omega) hone

/-! ### Overflow -/

/-- In the highest binade, of last place `2 * p`, the significand stays below 2^53 exactly below
`2^54 - 1` halves of the last place: the tie there goes up, `2^53 - 1` being odd. -/
theorem divTiesToEven_lt_iff {n p : Nat} (hp : 0 < p) (hn : n < 2 ^ 53 * (2 * p)) :
    divTiesToEven n (2 * p) < 2 ^ 53 ↔ n < (2 ^ 54 - 1) * p := by
  obtain ⟨hlo, hup, heven⟩ := divTiesToEven_spec n (2 * p) (by omega)
  generalize divTiesToEven n (2 * p) = m at *
  constructor
  · intro hm
    rcases Nat.lt_or_ge m (2 ^ 53 - 1) with hlt | hge
    · have : (2 * m + 1) * (2 * p) ≤ (2 ^ 54 - 3) * (2 * p) := Nat.mul_le_mul_right _ (by omega)
      omega
    · obtain rfl : m = 2 ^ 53 - 1 := by omega
      omega
  · intro hm
    by_contra hge
    have : 2 * 2 ^ 53 * (2 * p) ≤ 2 * m * (2 * p) := Nat.mul_le_mul_right _ (by omega)
    omega

/-- The encoding stays below biased exponent `k + 3` exactly while the magnitude is below the
largest number of biased exponent `k + 2` and half of its last place. -/
theorem rounded_lt_iff {n d : Nat} (hr : Ratio n d) (k : Nat) :
    2 ^ 52 * roundShift n d + significand n d < (k + 3) * 2 ^ 52 ↔
      n < (2 ^ 54 - 1) * 2 ^ k * d := by
  have hlt := lt_mul_roundShift hr
  have hsig := significand_le hr
  rw [Nat.mul_assoc, Nat.mul_comm _ d]
  rcases lt_trichotomy (roundShift n d) (k + 1) with hsh | hsh | hsh
  · have hpow : d * 2 ^ roundShift n d ≤ d * 2 ^ k :=
      Nat.mul_le_mul_left d (Nat.pow_le_pow_right (by omega) (by omega))
    omega
  · have hpow : d * 2 ^ (k + 1) = 2 * (d * 2 ^ k) := by rw [Nat.pow_succ]; ring
    rw [hsh, hpow] at hlt
    rw [← divTiesToEven_lt_iff (lastPlace_pos hr.pos k) hlt, significand, hsh, hpow]
    omega
  · have hpow : d * 2 ^ (k + 2) ≤ d * 2 ^ roundShift n d :=
      Nat.mul_le_mul_left d (Nat.pow_le_pow_right (by omega) (by omega))
    have hpow' : d * 2 ^ (k + 2) = 4 * (d * 2 ^ k) := by rw [Nat.pow_add]; ring
    have hge := mul_roundShift_le hr (by omega)
    have hsig' := le_significand hr (by omega)
    omega

/-- A magnitude overflows exactly from the largest finite number and half of its last place on. -/
theorem roundMag_lt_infMag_iff {n d : Nat} (hr : Ratio n d) :
    roundMag n d < infMag ↔ n < overflowUnits * d := by
  have henc : roundMag n d < infMag ↔
      2 ^ 52 * roundShift n d + significand n d < (2044 + 3) * 2 ^ 52 := by
    rw [roundMag_eq, infMag]
    omega
  exact henc.trans (rounded_lt_iff hr 2044)

theorem roundMag_of_lt {n d : Nat} (hr : Ratio n d) (h : n < overflowUnits * d) :
    roundMag n d = 2 ^ 52 * roundShift n d + significand n d := by
  have hlt := (roundMag_lt_infMag_iff hr).mpr h
  rw [roundMag_eq] at hlt ⊢
  omega

/-! ### No finite number is nearer -/

/-- `v` is not nearer to `num / den` than `r` is, and equally near only if it is `r` or `even`
holds. It is the last clause of `RoundsToNearest`. -/
def NoNearer (num : Int) (den : Nat) (r v : Int) (even : Prop) : Prop :=
  (num - den * r).natAbs ≤ (num - den * v).natAbs ∧
  ((num - den * r).natAbs = (num - den * v).natAbs → v ≠ r → even)

section
variable {num : Int} {den : Nat} {r v : Int} {even : Prop}

theorem NoNearer.mono {even' : Prop} (h : NoNearer num den r v even) (himp : even → even') :
    NoNearer num den r v even' :=
  ⟨h.1, fun htie hne => himp (h.2 htie hne)⟩

/-- What is farther than some candidate is farther than the nearest. -/
theorem NoNearer.of_lt {w : Int} (h : NoNearer num den r w even)
    (hlt : (num - den * w).natAbs < (num - den * v).natAbs) : NoNearer num den r v even :=
  ⟨h.1.trans hlt.le, fun htie => absurd htie (h.1.trans_lt hlt).ne⟩

/-- The unit of measurement may be changed from `p` units to 1. -/
theorem NoNearer.rescale {p : Nat} (h : NoNearer num (den * p) r v even) :
    NoNearer num den (r * p) (v * p) even := by
  have e : ∀ w : Int, (den : Int) * (w * p) = (den * p : Nat) * w := by
    intro w
    push_cast
    ring
  rw [NoNearer, e, e]
  exact ⟨h.1, fun htie hne => h.2 htie fun hv => hne (hv ▸ rfl)⟩

theorem NoNearer.neg (h : NoNearer num den r (-v) even) : NoNearer (-num) den (-r) v even := by
  have e : ∀ w : Int, (-num - den * w).natAbs = (num - den * -w).natAbs := by
    intro w
    rw [← Int.natAbs_neg]
    congr 1
    ring
  rw [NoNearer, e, e, neg_neg]
  exact ⟨h.1, fun htie hne => h.2 htie fun hv => hne (neg_eq_iff_eq_neg.mp hv)⟩

end

/-- Rounding an integer ratio gives the nearest integer, the even one of two equally near. -/
theorem divTiesToEven_noNearer (n : Nat) {d : Nat} (hd : 0 < d) (j : Int) :
    NoNearer n d (divTiesToEven n d) j (divTiesToEven n d % 2 = 0) := by
  obtain ⟨hlo, hup, heven⟩ := divTiesToEven_spec n d hd
  generalize divTiesToEven n d = m at *
  have hfar : j = m ∨ (d : Int) * j + d ≤ d * m ∨ (d : Int) * m + d ≤ d * j := by
    rcases lt_trichotomy j m with h | h | h
    · exact .inr (.inl (by nlinarith))
    · exact .inl h
    · exact .inr (.inr (by nlinarith))
  rw [show (2 * m + 1) * d = 2 * (d * m) + d by ring] at hlo heven
  rw [show 2 * m * d = 2 * (d * m) by ring] at hup heven
  rcases hfar with rfl | hfar
  · exact ⟨le_rfl, fun _ h => absurd rfl h⟩
  · rw [NoNearer]
    rw [← Nat.cast_mul] at hfar ⊢
    generalize (d : Int) * j = t at *
    generalize d * m = k at *
    exact ⟨by omega, fun h _ => heven (by omega)⟩

/-- The magnitude of an encoding is a multiple of the last place `2 ^ sh` of a rounding, or below
every magnitude that is rounded to that place. -/
theorem unitsOf_dvd_or_lt (mag sh : Nat) :
    2 ^ sh ∣ unitsOf mag ∨ unitsOf mag < 2 ^ 52 * 2 ^ sh := by
  rcases Nat.lt_or_ge (mag / 2 ^ 52 - 1) sh with hlt | hge
  · right
    have hpow : 2 ^ (mag / 2 ^ 52 - 1 + 1) ≤ 2 ^ sh := Nat.pow_le_pow_right (by omega) hlt
    have hbin := unitsOf_lt_binade mag
    rw [Nat.pow_succ] at hpow
    omega
  · left
    have hfr : mag % 2 ^ 52 < 2 ^ 52 := Nat.mod_lt _ (by positivity)
    rw [← Nat.div_add_mod mag (2 ^ 52), unitsOf_fields hfr]
    split
    next h0 => simp [show sh = 0 by omega]
    next => exact Dvd.dvd.mul_left (Nat.pow_dvd_pow 2 hge) _

/-- No number that `unitsOf_dvd_or_lt` describes is nearer than the rounded magnitude: among the
multiples of the last place it is the nearest, and the others are below one of these. -/
theorem roundedUnits_noNearer {n d : Nat} (hr : Ratio n d) {v : Int}
    (hv : 2 ^ roundShift n d ∣ v.natAbs ∨ v.natAbs < 2 ^ 52 * 2 ^ roundShift n d) :
    NoNearer n d (roundedUnits n d) v (significand n d % 2 = 0) := by
  have hplaces : ∀ j : Int, NoNearer n d (roundedUnits n d) (j * (2 ^ roundShift n d : Nat))
      (significand n d % 2 = 0) := fun j => by
    rw [roundedUnits, Nat.cast_mul]
    exact (divTiesToEven_noNearer n (lastPlace_pos hr.pos _) j).rescale
  by_cases hdvd : 2 ^ roundShift n d ∣ v.natAbs
  · obtain ⟨j, rfl⟩ : ((2 ^ roundShift n d : Nat) : Int) ∣ v := Int.natCast_dvd.mpr hdvd
    rw [mul_comm]
    exact hplaces j
  · have hlt := hv.resolve_left hdvd
    have hle := mul_roundShift_le hr fun e => hdvd (by simp [e])
    refine (hplaces (2 ^ 52 : Nat)).of_lt ?_
    rw [← Nat.cast_mul, ← Nat.cast_mul]
    have hstep : (d : Int) * v < (d * (2 ^ 52 * 2 ^ roundShift n d) : Nat) := by
      rw [Nat.cast_mul]
      exact mul_lt_mul_of_pos_left (by omega) (by exact_mod_cast hr.pos)
    rw [Nat.mul_left_comm] at hle
    generalize (d : Int) * v = dv at *
    generalize d * (2 ^ 52 * 2 ^ roundShift n d) = top at *
    omega

/-! ### The rounded encoding: sign, low bit, value -/

theorem sign_of_unpack_fin {x : F64} {n : Bool} {u : Nat} (h : unpack x = .fin n u) :
    x.getLsbD 63 = n := by
  rcases unpack_cases x with ⟨w, e⟩ | e | e <;> rw [e] at h
  · injection h
  · cases h
  · cases h

theorem sign_of_unpack_inf {x : F64} {n : Bool} (h : unpack x = .inf n) : x.getLsbD 63 = n := by
  rcases unpack_cases x with ⟨w, e⟩ | e | e <;> rw [e] at h
  · cases h
  · injection h
  · cases h

theorem roundUnits_sign (neg : Bool) (n d : Nat) : (roundUnits neg n d).getLsbD 63 = neg := by
  have h := unpack_roundUnits neg n d
  split at h
  · exact sign_of_unpack_fin h
  · exact sign_of_unpack_inf h

theorem packMag_getLsbD_zero (neg : Bool) (mag : Nat) :
    (packMag neg mag).getLsbD 0 = decide (mag % 2 = 1) := by
  rw [packMag, BitVec.getLsbD_ofNat, Nat.testBit_zero]
  cases neg <;> simp
  omega

theorem finiteValue_of_unpack_fin {x : F64} {n : Bool} {u : Nat} (h : unpack x = .fin n u) :
    finiteValue x = some (signedUnits n u) := by
  rw [finiteValue, h]

/-- A rounded result that does not overflow has the rounded magnitude and the given sign. -/
theorem finiteValue_roundUnits {neg : Bool} {n d : Nat} (hr : Ratio n d)
    (h : n < overflowUnits * d) :
    finiteValue (roundUnits neg n d) = some (signedUnits neg (roundedUnits n d)) := by
  rw [← unitsOf_rounded hr, ← roundMag_of_lt hr h]
  exact finiteValue_of_unpack_fin
    (by rw [unpack_roundUnits, if_pos ((roundMag_lt_infMag_iff hr).mpr h)])

/-- A rounded result that does not overflow is even where its significand is. -/
theorem roundUnits_even {neg : Bool} {n d : Nat} (hr : Ratio n d) (h : n < overflowUnits * d)
    (heven : significand n d % 2 = 0) : (roundUnits neg n d).getLsbD 0 = false := by
  rw [roundUnits, packMag_getLsbD_zero, roundMag_of_lt hr h, decide_eq_false_iff_not]
  omega

/-- An overflowing result is an infinity. -/
theorem unpack_roundUnits_overflow {neg : Bool} {n d : Nat} (hr : Ratio n d)
    (h : overflowUnits * d ≤ n) : unpack (roundUnits neg n d) = .inf neg := by
  rw [unpack_roundUnits, if_neg ((roundMag_lt_infMag_iff hr).not.mpr (by omega))]

/-! ### Signed magnitudes -/

@[simp] theorem signedUnits_natAbs (neg : Bool) (u : Nat) : (signedUnits neg u).natAbs = u := by
  cases neg <;> simp [signedUnits]

/-- The sign of a non-zero number. -/
theorem decide_signedUnits_lt_zero {neg : Bool} {u : Nat} (h : u ≠ 0) :
    decide (signedUnits neg u < 0) = neg := by
  cases neg <;> simp [signedUnits]
  omega

@[simp] theorem signedUnits_eq_zero {neg : Bool} {u : Nat} : signedUnits neg u = 0 ↔ u = 0 := by
  rw [← Int.natAbs_eq_zero, signedUnits_natAbs]

theorem signedUnits_mul (na nb : Bool) (x y : Nat) :
    signedUnits (na ^^ nb) (x * y) = signedUnits na x * signedUnits nb y := by
  cases na <;> cases nb <;> simp [signedUnits]

theorem signedUnits_mul_left (neg : Bool) (k x : Nat) :
    signedUnits neg (k * x) = k * signedUnits neg x := by
  cases neg <;> simp [signedUnits]

theorem signedUnits_not (neg : Bool) (u : Nat) : signedUnits (!neg) u = -signedUnits neg u := by
  cases neg <;> simp [signedUnits]

theorem signedUnits_sign {neg : Bool} {u : Nat} (h : u ≠ 0) :
    (signedUnits neg u).sign = signedUnits neg 1 := by
  have : (u : Int).sign = 1 := Int.sign_eq_one_of_pos (by omega)
  cases neg <;> simp [signedUnits, this]

/-- The magnitude of a finite number. -/
def Representable (u : Nat) : Prop := ∃ mag < infMag, unitsOf mag = u

theorem representable_of_unpack_fin {x : F64} {n : Bool} {u : Nat} (h : unpack x = .fin n u) :
    Representable u := by
  simp only [unpack] at h
  split at h
  next hfin =>
    injection h with _ hu
    exact ⟨_, hfin, hu⟩
  next => split at h <;> cases h

/-- Inversion: a number with a finite value is its own sign and a representable magnitude. -/
theorem finiteValue_some {x : F64} {v : Int} (h : finiteValue x = some v) :
    ∃ u, unpack x = .fin (x.getLsbD 63) u ∧ v = signedUnits (x.getLsbD 63) u ∧ Representable u := by
  rcases unpack_cases x with ⟨u, e⟩ | e | e <;> rw [finiteValue, e] at h
  · exact ⟨u, e, (Option.some.inj h).symm, representable_of_unpack_fin e⟩
  · cases h
  · cases h

/-- A magnitude of biased exponent at most `k + 1`. -/
theorem unitsOf_lt {mag k : Nat} (h : mag < 2 ^ 52 * (k + 2)) : unitsOf mag < 2 ^ (53 + k) := by
  have hex : mag / 2 ^ 52 < k + 2 := Nat.div_lt_of_lt_mul h
  rw [Nat.pow_add]
  exact (unitsOf_lt_binade mag).trans_le
    (Nat.mul_le_mul_left _ (Nat.pow_le_pow_right (by omega) (by omega)))

/-- Every finite magnitude is below 2^2098 units, 2046 being the largest finite biased exponent. -/
theorem Representable.lt {u : Nat} (h : Representable u) : u < 2 ^ (53 + 2045) := by
  obtain ⟨mag, hmag, rfl⟩ := h
  exact unitsOf_lt hmag

/-- A magnitude below `2^k` units over at least `2^e` is one that `roundShift` measures. -/
theorem Ratio.of_lt_two_pow {n d k e : Nat} (hn : n < 2 ^ k) (hd : 2 ^ e ≤ d)
    (hk : k ≤ e + 2 ^ 12) : Ratio n d where
  pos := lt_of_lt_of_le (by positivity) hd
  lt := calc n < 2 ^ k := hn
    _ ≤ 2 ^ (e + 2 ^ 12) := Nat.pow_le_pow_right (by omega) hk
    _ = 2 ^ e * 2 ^ 2 ^ 12 := Nat.pow_add ..
    _ ≤ d * 2 ^ 2 ^ 12 := Nat.mul_le_mul_right _ hd

theorem add_lt_two_pow {x y k : Nat} (hx : x < 2 ^ k) (hy : y < 2 ^ k) : x + y < 2 ^ (k + 1) := by
  rw [Nat.pow_succ]
  omega

theorem mul_lt_two_pow {x y j k : Nat} (hx : x < 2 ^ j) (hy : y < 2 ^ k) : x * y < 2 ^ (j + k) := by
  rw [Nat.pow_add]
  exact Nat.mul_lt_mul'' hx hy

theorem two_pow_mul_lt {x k : Nat} (j : Nat) (hx : x < 2 ^ k) : 2 ^ j * x < 2 ^ (j + k) := by
  rw [Nat.pow_add]
  exact Nat.mul_lt_mul_of_pos_left hx (Nat.two_pow_pos j)

/-! ### One rounding is correct -/

/-- A sign on both the exact and the rounded magnitude. -/
theorem NoNearer.signed {n d u : Nat} {even : Prop}
    (h : ∀ v : Int, v.natAbs = u → NoNearer n d (roundedUnits n d) v even) (neg : Bool) {v : Int}
    (hv : v.natAbs = u) :
    NoNearer (signedUnits neg n) d (signedUnits neg (roundedUnits n d)) v even := by
  cases neg with
  | false => exact h v hv
  | true => exact (h (-v) (by rwa [Int.natAbs_neg])).neg

theorem roundUnits_roundsToNearest (neg : Bool) {n d : Nat} (hr : Ratio n d) :
    RoundsToNearest (roundUnits neg n d) (signedUnits neg n) d := by
  have hover : 0 < overflowUnits * d := Nat.mul_pos (by rw [overflowUnits]; positivity) hr.pos
  rw [RoundsToNearest, signedUnits_natAbs]
  refine ⟨fun h => ?_, fun h => ⟨_, finiteValue_roundUnits hr h⟩, fun r hfin c v hc => ?_⟩
  · rw [unpack_roundUnits_overflow hr h, decide_signedUnits_lt_zero (by omega)]
  · have hlt : n < overflowUnits * d := by
      by_contra hge
      rw [finiteValue, unpack_roundUnits_overflow hr (by omega)] at hfin
      cases hfin
    obtain rfl : _ = r := Option.some.inj ((finiteValue_roundUnits hr hlt).symm.trans hfin)
    obtain ⟨_, -, rfl, mag, -, rfl⟩ := finiteValue_some hc
    refine NoNearer.mono ?_ (roundUnits_even hr hlt)
    refine NoNearer.signed (fun w hw => roundedUnits_noNearer hr ?_) neg (signedUnits_natAbs _ _)
    rw [hw]
    exact unitsOf_dvd_or_lt mag _

/-! ### The operations on finite operands -/

theorem f64Add_fin {a b : F64} {na nb : Bool} {x y : Nat} (ha : unpack a = .fin na x)
    (hb : unpack b = .fin nb y) : f64Add a b = addUnits na x nb y := by
  simp only [f64Add, ha, hb]

theorem f64Mul_fin {a b : F64} {na nb : Bool} {x y : Nat} (ha : unpack a = .fin na x)
    (hb : unpack b = .fin nb y) : f64Mul a b = roundUnits (na ^^ nb) (x * y) unitsPerOne := by
  simp only [f64Mul, ha, hb]

theorem f64Div_fin {a b : F64} {na nb : Bool} {x y : Nat} (ha : unpack a = .fin na x)
    (hb : unpack b = .fin nb y) (hy : y ≠ 0) :
    f64Div a b = roundUnits (na ^^ nb) (unitsPerOne * x) y := by
  simp only [f64Div, ha, hb, if_neg hy]

theorem roundUnits_zero (neg : Bool) : roundUnits neg 0 1 = packMag neg 0 := by
  cases neg <;> decide +kernel

/-- A sum of finite data is one rounding of the exact sum. -/
theorem addUnits_eq_roundUnits (na : Bool) (x : Nat) (nb : Bool) (y : Nat) :
    ∃ neg m, addUnits na x nb y = roundUnits neg m 1 ∧
      signedUnits neg m = signedUnits na x + signedUnits nb y ∧ m ≤ x + y := by
  by_cases hs : na = nb
  · subst hs
    refine ⟨na, x + y, by rw [addUnits, if_pos rfl], ?_, le_rfl⟩
    cases na <;> simp [signedUnits]; omega
  · obtain rfl : nb = !na := Bool.eq_not_of_ne (Ne.symm hs)
    rcases lt_trichotomy x y with hlt | rfl | hgt
    · refine ⟨!na, y - x, ?_, ?_, by omega⟩
      · rw [addUnits, if_neg hs, if_neg (by omega), if_pos hlt]
      · cases na <;> simp [signedUnits] <;> omega
    · refine ⟨false, 0, ?_, ?_, by omega⟩
      · rw [addUnits, if_neg hs, if_neg (by omega), if_neg (by omega), roundUnits_zero]; rfl
      · cases na <;> simp [signedUnits]
    · refine ⟨na, x - y, ?_, ?_, by omega⟩
      · rw [addUnits, if_neg hs, if_pos hgt]
      · cases na <;> simp [signedUnits] <;> omega

/-- The datum of the other sign. -/
def F64Class.negate : F64Class → F64Class
  | .nan => .nan
  | .inf n => .inf !n
  | .fin n u => .fin (!n) u

theorem f64Neg_getLsbD (b : F64) : (f64Neg b).getLsbD 63 = !b.getLsbD 63 := by
  have h : (0x8000000000000000#64).getLsbD 63 = true := by decide
  rw [f64Neg, BitVec.getLsbD_xor, h, Bool.xor_true]

theorem f64Neg_toNat_mod (b : F64) : (f64Neg b).toNat % 2 ^ 63 = b.toNat % 2 ^ 63 := by
  rw [f64Neg, BitVec.toNat_xor, Nat.xor_mod_two_pow]
  exact Nat.xor_zero _

theorem unpack_f64Neg (b : F64) : unpack (f64Neg b) = (unpack b).negate := by
  simp only [unpack, f64Neg_getLsbD, f64Neg_toNat_mod]
  split
  · rfl
  · split <;> rfl

theorem finiteValue_f64Neg {b : F64} {v : Int} (h : finiteValue b = some v) :
    finiteValue (f64Neg b) = some (-v) := by
  obtain ⟨u, e, rfl, -⟩ := finiteValue_some h
  have e' : unpack (f64Neg b) = .fin (!b.getLsbD 63) u := by
    rw [unpack_f64Neg, e, F64Class.negate]
  rw [finiteValue_of_unpack_fin e', signedUnits_not]

theorem f64Add_roundsToNearest {a b : F64} {va vb : Int} (ha : finiteValue a = some va)
    (hb : finiteValue b = some vb) : RoundsToNearest (f64Add a b) (va + vb) 1 := by
  obtain ⟨x, ea, rfl, hx⟩ := finiteValue_some ha
  obtain ⟨y, eb, rfl, hy⟩ := finiteValue_some hb
  obtain ⟨neg, m, e, hsum, hm⟩ := addUnits_eq_roundUnits (a.getLsbD 63) x (b.getLsbD 63) y
  have hlt := hm.trans_lt (add_lt_two_pow hx.lt hy.lt)
  rw [f64Add_fin ea eb, e, ← hsum]
  exact roundUnits_roundsToNearest neg (.of_lt_two_pow (e := 0) hlt (by omega) (by omega))

theorem f64Mul_roundsToNearest {a b : F64} {va vb : Int} (ha : finiteValue a = some va)
    (hb : finiteValue b = some vb) : RoundsToNearest (f64Mul a b) (va * vb) (2 ^ 1074) := by
  obtain ⟨x, ea, rfl, hx⟩ := finiteValue_some ha
  obtain ⟨y, eb, rfl, hy⟩ := finiteValue_some hb
  have hlt := mul_lt_two_pow hx.lt hy.lt
  rw [f64Mul_fin ea eb, ← signedUnits_mul]
  exact roundUnits_roundsToNearest _ (.of_lt_two_pow (e := 1074) hlt le_rfl (by omega))

theorem f64Div_roundsToNearest {a b : F64} {va vb : Int} (ha : finiteValue a = some va)
    (hb : finiteValue b = some vb) (h0 : vb ≠ 0) :
    RoundsToNearest (f64Div a b) (2 ^ 1074 * (va * vb.sign)) vb.natAbs := by
  obtain ⟨x, ea, rfl, hx⟩ := finiteValue_some ha
  obtain ⟨y, eb, rfl, hy⟩ := finiteValue_some hb
  have hy0 : y ≠ 0 := signedUnits_eq_zero.not.mp h0
  have hlt : unitsPerOne * x < 2 ^ (1074 + (53 + 2045)) := two_pow_mul_lt 1074 hx.lt
  have hone : (2 ^ 1074 : Int) = (unitsPerOne : Nat) := by
    rw [unitsPerOne, Nat.cast_pow, Nat.cast_ofNat]
  rw [f64Div_fin ea eb hy0, signedUnits_sign hy0, signedUnits_natAbs, ← signedUnits_mul,
    Nat.mul_one, hone, ← signedUnits_mul_left]
  exact roundUnits_roundsToNearest _ (.of_lt_two_pow (e := 0) hlt (by omega) (by omega))

/-- Settles O54: each operation on finite operands is one rounding of the exact result, and
`roundUnits_roundsToNearest` says that such a rounding is correct. -/
theorem arithmeticRoundsToNearestEven : Obligations.ArithmeticRoundsToNearestEven :=
  fun _ _ _ _ ha hb => ⟨f64Add_roundsToNearest ha hb,
    f64Add_roundsToNearest ha (finiteValue_f64Neg hb), f64Mul_roundsToNearest ha hb,
    f64Div_roundsToNearest ha hb⟩

/-! ### Integers below 2^53 -/

/-- A magnitude that is a multiple of its last place is not changed by the rounding. -/
theorem roundedUnits_of_dvd {n : Nat} (h : 2 ^ roundShift n 1 ∣ n) : roundedUnits n 1 = n := by
  obtain ⟨q, hq⟩ := h
  have hexact := divTiesToEven_exact q (2 ^ roundShift n 1) (by positivity)
  rw [Nat.mul_comm q, ← hq] at hexact
  rw [roundedUnits, significand, Nat.one_mul, hexact, Nat.mul_comm, ← hq]

/-- An integer below 2^53 at a scale `2^k` is below the largest numbers of a scale from `2^k` on. -/
theorem two_pow_mul_lt_largest {m k top : Nat} (hm : m < 2 ^ 53) (hk : k ≤ top) :
    2 ^ k * m < (2 ^ 54 - 1) * 2 ^ top := by
  rw [Nat.mul_comm]
  exact Nat.mul_lt_mul_of_lt_of_le (by omega) (Nat.pow_le_pow_right Nat.two_pos hk)
    (Nat.two_pow_pos top)

/-- An integer below 2^53 at any scale `2^k` within range is rounded to itself. -/
theorem finiteValue_roundUnits_exact {k m : Nat} (hm : m < 2 ^ 53) (hk : k ≤ 2044) (neg : Bool) :
    finiteValue (roundUnits neg (2 ^ k * m) 1) = some (signedUnits neg (2 ^ k * m)) := by
  have hlt := two_pow_mul_lt k hm
  have hr : Ratio (2 ^ k * m) 1 := .of_lt_two_pow (e := 0) hlt (by omega) (by omega)
  have hsh : roundShift (2 ^ k * m) 1 ≤ k := by
    by_contra hgt
    have hle := mul_roundShift_le hr (by omega)
    rw [Nat.one_mul, ← Nat.pow_add] at hle
    have := (Nat.pow_lt_pow_iff_right (by omega)).mp (hle.trans_lt hlt)
    omega
  have hover : 2 ^ k * m < overflowUnits * 1 := by
    rw [overflowUnits, Nat.mul_one]
    exact two_pow_mul_lt_largest hm hk
  rw [finiteValue_roundUnits hr hover,
    roundedUnits_of_dvd (Dvd.dvd.mul_right (Nat.pow_dvd_pow 2 hsh) m)]

/-- Settles O53: an integer is a significand in units of 1, that is of 2^1074 units. -/
theorem integerConversionIsExact : Obligations.IntegerConversionIsExact := by
  refine ⟨fun k hk => ?_, by decide +kernel, by decide +kernel⟩
  rw [f64OfNat, unitsPerOne, finiteValue_roundUnits_exact hk (by omega)]
  norm_cast

/-! ### NaN operands -/

theorem unpack_freeNaN (a b : F64) : unpack (freeNaN a b) = .nan := by
  have hmag : infMag < (freeNaN a b).toNat % 2 ^ 63 := by
    simp only [freeNaN, BitVec.toNat_append]
    have hs := ((Config.nanBits a b).extractLsb' 51 1).isLt
    have hp := ((Config.nanBits a b).extractLsb' 0 51).isLt
    generalize ((Config.nanBits a b).extractLsb' 51 1).toNat = s at *
    generalize ((Config.nanBits a b).extractLsb' 0 51).toNat = p at *
    rw [← Nat.shiftLeft_add_eq_or_of_lt (BitVec.isLt _), ← Nat.shiftLeft_add_eq_or_of_lt hp,
      Nat.shiftLeft_eq, Nat.shiftLeft_eq, infMag, show (0xFFF#12).toNat = 4095 from rfl]
    omega
  rw [unpack, if_neg (by omega), if_neg (by omega)]

/-- An operation with a NaN operand is invalid, and a comparison with one is false. -/
theorem nan_operand {a b : F64} (h : unpack a = .nan ∨ unpack b = .nan) :
    f64Add a b = freeNaN a b ∧ f64Mul a b = freeNaN a b ∧ f64Div a b = freeNaN a b ∧
    f64Lt a b = false := by
  rcases h with h | h
  · simp only [f64Add, f64Mul, f64Div, f64Lt, h, and_self]
  · cases e : unpack a <;> simp only [f64Add, f64Mul, f64Div, f64Lt, e, h, and_self]

theorem unpack_f64Neg_nan {b : F64} (h : unpack b = .nan) : unpack (f64Neg b) = .nan := by
  rw [unpack_f64Neg, h, F64Class.negate]

theorem unpack_f64Neg_inf {b : F64} {n : Bool} (h : unpack b = .inf n) :
    unpack (f64Neg b) = .inf !n := by
  rw [unpack_f64Neg, h, F64Class.negate]

/-! ### Comparison -/

/-- Settles O55: finite data are compared as signed numbers of units. -/
theorem comparisonIsOrdered : Obligations.ComparisonIsOrdered := by
  refine ⟨fun a b va vb ha hb => ?_, fun _ _ h => (nan_operand h).2.2.2⟩
  obtain ⟨x, ea, rfl, -⟩ := finiteValue_some ha
  obtain ⟨y, eb, rfl, -⟩ := finiteValue_some hb
  simp only [f64Lt, ea, eb, decide_eq_true_eq]

/-! ### Signs of results of finite operands -/

theorem f64Add_sign {a b : F64} {va vb : Int} (ha : finiteValue a = some va)
    (hb : finiteValue b = some vb) (h : va + vb ≠ 0) :
    (f64Add a b).getLsbD 63 = decide (va + vb < 0) := by
  obtain ⟨x, ea, rfl, -⟩ := finiteValue_some ha
  obtain ⟨y, eb, rfl, -⟩ := finiteValue_some hb
  obtain ⟨neg, m, e, hsum, -⟩ := addUnits_eq_roundUnits (a.getLsbD 63) x (b.getLsbD 63) y
  rw [← hsum] at h ⊢
  rw [f64Add_fin ea eb, e, roundUnits_sign,
    decide_signedUnits_lt_zero (signedUnits_eq_zero.not.mp h)]

theorem packMag_zero (neg : Bool) :
    packMag neg 0 = if neg then 0x8000000000000000 else 0x0000000000000000 := by
  cases neg <;> rfl

/-- An exact zero sum is -0.0 where both terms are negative, and +0.0 otherwise. -/
theorem addUnits_zero {na nb : Bool} {x y : Nat} (h : signedUnits na x + signedUnits nb y = 0) :
    addUnits na x nb y = packMag (na && nb) 0 := by
  by_cases hs : na = nb
  · subst hs
    have hxy : x + y = 0 := by cases na <;> simp [signedUnits] at h <;> omega
    rw [addUnits, if_pos rfl, hxy, roundUnits_zero, Bool.and_self]
  · obtain rfl : nb = !na := Bool.eq_not_of_ne (Ne.symm hs)
    obtain rfl : x = y := by cases na <;> simp [signedUnits] at h <;> omega
    rw [addUnits, if_neg hs, if_neg (Nat.lt_irrefl x), if_neg (Nat.lt_irrefl x), Bool.and_not_self]
    rfl

theorem f64Add_zero {a b : F64} {va vb : Int} (ha : finiteValue a = some va)
    (hb : finiteValue b = some vb) (h : va + vb = 0) : f64Add a b =
      if a.getLsbD 63 && b.getLsbD 63 then 0x8000000000000000 else 0x0000000000000000 := by
  obtain ⟨x, ea, rfl, -⟩ := finiteValue_some ha
  obtain ⟨y, eb, rfl, -⟩ := finiteValue_some hb
  rw [f64Add_fin ea eb, addUnits_zero h, packMag_zero]

theorem f64Mul_sign {a b : F64} {va vb : Int} (ha : finiteValue a = some va)
    (hb : finiteValue b = some vb) : (f64Mul a b).getLsbD 63 = (a.getLsbD 63 ^^ b.getLsbD 63) := by
  obtain ⟨x, ea, -, -⟩ := finiteValue_some ha
  obtain ⟨y, eb, -, -⟩ := finiteValue_some hb
  rw [f64Mul_fin ea eb, roundUnits_sign]

theorem f64Div_sign {a b : F64} {va vb : Int} (ha : finiteValue a = some va)
    (hb : finiteValue b = some vb) (h : vb ≠ 0) :
    (f64Div a b).getLsbD 63 = (a.getLsbD 63 ^^ b.getLsbD 63) := by
  obtain ⟨x, ea, -, -⟩ := finiteValue_some ha
  obtain ⟨y, eb, rfl, -⟩ := finiteValue_some hb
  rw [f64Div_fin ea eb (signedUnits_eq_zero.not.mp h), roundUnits_sign]

@[simp] theorem unpack_packMag_infMag (neg : Bool) : unpack (packMag neg infMag) = .inf neg := by
  rw [unpack_packMag _ _ infMag_lt, if_neg (Nat.lt_irrefl _), if_pos rfl]

/-- A number divided by zero is an infinity, and zero divided by zero is invalid. -/
theorem unpack_f64Div_zero {a b : F64} {va : Int} (ha : finiteValue a = some va)
    (hb : finiteValue b = some 0) :
    unpack (f64Div a b) = if va = 0 then .nan else .inf (a.getLsbD 63 ^^ b.getLsbD 63) := by
  obtain ⟨x, ea, rfl, -⟩ := finiteValue_some ha
  obtain ⟨y, eb, hy, -⟩ := finiteValue_some hb
  obtain rfl : y = 0 := signedUnits_eq_zero.mp hy.symm
  simp only [f64Div, ea, eb, signedUnits_eq_zero, if_true]
  split
  · exact unpack_freeNaN a b
  · exact unpack_packMag_infMag _

/-! ### Infinite operands -/

theorem f64Add_inf_fin {a b : F64} {n : Bool} {vb : Int} (ha : unpack a = .inf n)
    (hb : finiteValue b = some vb) :
    unpack (f64Add a b) = .inf n ∧ unpack (f64Add b a) = .inf n := by
  obtain ⟨y, eb, -, -⟩ := finiteValue_some hb
  simp only [f64Add, ha, eb, unpack_packMag_infMag, and_self]

theorem f64Sub_inf_fin {a b : F64} {n : Bool} {vb : Int} (ha : unpack a = .inf n)
    (hb : finiteValue b = some vb) :
    unpack (f64Sub a b) = .inf n ∧ unpack (f64Sub b a) = .inf !n :=
  ⟨(f64Add_inf_fin ha (finiteValue_f64Neg hb)).1, (f64Add_inf_fin (unpack_f64Neg_inf ha) hb).2⟩

theorem f64Mul_inf_fin {a b : F64} {n : Bool} {vb : Int} (ha : unpack a = .inf n)
    (hb : finiteValue b = some vb) (h : vb ≠ 0) :
    unpack (f64Mul a b) = .inf (n ^^ b.getLsbD 63) ∧
    unpack (f64Mul b a) = .inf (n ^^ b.getLsbD 63) := by
  obtain ⟨y, eb, rfl, -⟩ := finiteValue_some hb
  simp only [f64Mul, ha, eb, if_neg (signedUnits_eq_zero.not.mp h), unpack_packMag_infMag,
    Bool.xor_comm, and_self]

/-- An infinity times zero is invalid. -/
theorem f64Mul_inf_zero {a b : F64} {n : Bool} (ha : unpack a = .inf n)
    (hb : finiteValue b = some 0) : unpack (f64Mul a b) = .nan ∧ unpack (f64Mul b a) = .nan := by
  obtain ⟨y, eb, hy, -⟩ := finiteValue_some hb
  simp only [f64Mul, ha, eb, if_pos (signedUnits_eq_zero.mp hy.symm), unpack_freeNaN, and_self]

theorem f64Div_inf_fin {a b : F64} {n : Bool} {vb : Int} (ha : unpack a = .inf n)
    (hb : finiteValue b = some vb) : unpack (f64Div a b) = .inf (n ^^ b.getLsbD 63) ∧
    f64Div b a =
      if n ^^ b.getLsbD 63 then 0x8000000000000000 else 0x0000000000000000 := by
  obtain ⟨y, eb, -, -⟩ := finiteValue_some hb
  refine ⟨by simp only [f64Div, ha, eb, unpack_packMag_infMag], ?_⟩
  simp only [f64Div, ha, eb]
  rw [packMag_zero, Bool.xor_comm]

theorem f64Lt_inf_fin {a b : F64} {n : Bool} {vb : Int} (ha : unpack a = .inf n)
    (hb : finiteValue b = some vb) : f64Lt a b = n ∧ f64Lt b a = !n := by
  obtain ⟨y, eb, -, -⟩ := finiteValue_some hb
  simp only [f64Lt, ha, eb, and_self]

theorem f64Add_inf_inf {a b : F64} {n m : Bool} (ha : unpack a = .inf n) (hb : unpack b = .inf m) :
    unpack (f64Add a b) = if n = m then .inf n else .nan := by
  simp only [f64Add, ha, hb]
  split
  · exact unpack_packMag_infMag n
  · exact unpack_freeNaN a b

theorem f64Sub_inf_inf {a b : F64} {n m : Bool} (ha : unpack a = .inf n) (hb : unpack b = .inf m) :
    unpack (f64Sub a b) = if n = m then .nan else .inf n := by
  rw [f64Sub, f64Add_inf_inf ha (unpack_f64Neg_inf hb)]
  cases n <;> cases m <;> rfl

/-- Settles O56, operand class by operand class: a NaN, two finite numbers, an infinity and a finite
number, two infinities. -/
theorem arithmeticSignsAndSpecialOperands : Obligations.ArithmeticSignsAndSpecialOperands := by
  refine ⟨fun a b h => ?_, fun a b va vb ha hb => ?_, fun a b n vb ha hb => ?_,
    fun a b n m ha hb => ?_⟩
  · obtain ⟨hadd, hmul, hdiv, -⟩ := nan_operand h
    obtain ⟨hsub, -⟩ := nan_operand (h.imp_right unpack_f64Neg_nan)
    rw [f64Sub, hadd, hsub, hmul, hdiv]
    exact ⟨unpack_freeNaN .., unpack_freeNaN .., unpack_freeNaN .., unpack_freeNaN ..⟩
  · have hb' := finiteValue_f64Neg hb
    have hzero := f64Add_zero ha hb'
    rw [f64Neg_getLsbD] at hzero
    refine ⟨f64Add_sign ha hb, f64Add_zero ha hb, f64Add_sign ha hb', hzero, f64Mul_sign ha hb,
      f64Div_sign ha hb, ?_, ?_⟩ <;> rintro rfl hva <;> rw [unpack_f64Div_zero ha hb]
    · exact if_neg hva
    · exact if_pos hva
  · obtain ⟨hadd, hadd'⟩ := f64Add_inf_fin ha hb
    obtain ⟨hsub, hsub'⟩ := f64Sub_inf_fin ha hb
    obtain ⟨hdiv, hdiv'⟩ := f64Div_inf_fin ha hb
    exact ⟨hadd, hadd', hsub, hsub', f64Mul_inf_fin ha hb, fun h => f64Mul_inf_zero ha (h ▸ hb),
      hdiv, hdiv', f64Lt_inf_fin ha hb⟩
  · refine ⟨f64Add_inf_inf ha hb, f64Sub_inf_inf ha hb, ?_, ?_, ?_⟩
    · simp only [f64Mul, ha, hb, unpack_packMag_infMag]
    · simp only [f64Div, ha, hb, unpack_freeNaN]
    · simp only [f64Lt, ha, hb]

end Sys2Proof.Machine
end

section
namespace Sys2Proof.Machine

/-! ### Sticky bits (60_exceptions.md R172, 42_control.md R154) -/

@[simp] theorem stickyBit_recordError (e e' : ErrorClass) (st : Status) :
    stickyBit e (recordError e' st) = (stickyBit e st || e' == e) := by
  cases e <;> simp [stickyBit]

@[simp] theorem stickyBit_clearSticky (e : ErrorClass) (m : Word) (st : Status) :
    stickyBit e (clearSticky m st) = (stickyBit e st && !m.getLsbD (statusBit e)) := by
  cases e <;> rfl

@[simp] theorem stickyBit_staleResult (e : ErrorClass) (st : Status) :
    stickyBit e (staleResult st) = stickyBit e st := by cases e <;> rfl

@[simp] theorem stickyBit_currentResult (e : ErrorClass) (d : Bool) (st : Status) :
    stickyBit e (currentResult d st) = stickyBit e st := by cases e <;> rfl

@[simp] theorem stickyBit_reset (e : ErrorClass) : stickyBit e Status.reset = false := by
  cases e <;> rfl

theorem anySticky_eq_false_iff (st : Status) :
    anySticky st = false ↔ ∀ e, stickyBit e st = false := by
  simp only [anySticky, Bool.or_eq_false_iff]
  constructor
  · rintro ⟨⟨⟨⟨hempty, hovf⟩, hrange⟩, hcmd⟩, hacc⟩ e
    cases e <;> assumption
  · exact fun h => ⟨⟨⟨⟨h .empty, h .ovf⟩, h .range⟩, h .cmd⟩, h .acc⟩

/-- An acknowledgement sets no sticky bit. -/
theorem anySticky_of_clearSticky {m : Word} {st : Status}
    (h : anySticky (clearSticky m st) = true) : anySticky st = true := by
  by_contra hst
  have hnone := (anySticky_eq_false_iff st).mp (by simpa using hst)
  rw [(anySticky_eq_false_iff (clearSticky m st)).mpr (by simp [hnone])] at h
  cases h

/-! ### What an instruction can do -/

/-- What an instruction does to the state, by kinds of effect: `EffectOf i s u` is that `i` in `s` has
one of these effects, and that `u` is the state it leaves. -/
inductive EffectOf (i : Instr) (s : State) : State → Prop
  /-- NOP and the supported reads. -/
  | quiet (hoff : offered i = []) (hraised : raised i s = none) (hclear : i ≠ .clear)
      (hsolve : i ≠ .solve) (hack : ∀ m, i ≠ .wrStatus m) : EffectOf i s s
  /-- A refused operation, SOLVE apart. -/
  | error (e : ErrorClass) (hraised : raised i s = some e) (hsolve : i ≠ .solve) :
      EffectOf i s (raiseError e s)
  /-- SOLVE of an empty histogram. -/
  | empty (hi : i = .solve) (hraised : raised i s = some .empty) :
      EffectOf i s (raiseError .empty (invalidate s))
  /-- SOLVE of a histogram that is not empty. -/
  | solve (hi : i = .solve) (hraised : raised i s = none) (hN : s.N ≠ 0) :
      EffectOf i s (commitSolve (otsu s.H s.N) s)
  | clear (hi : i = .clear) : EffectOf i s (clearAll s)
  | acknowledged (m : Word) (hi : i = .wrStatus m) : EffectOf i s (acknowledge m s)
  /-- An accepted tally write. -/
  | tally (hoff : offered i ≠ []) (hraised : raised i s = none)
      (hfits : s.N.toNat + (offered i).length ≤ 0xFFFFFFFF) :
      EffectOf i s (invalidate (tallyAll (offered i) s))

/-- A tally write is accepted whole or raises OVF. -/
theorem effectOf_tallyWrite {i : Instr} {s : State} (hoff : offered i ≠ []) (hsolve : i ≠ .solve)
    (hraised : raised i s =
      if s.N.toNat + (offered i).length > 0xFFFFFFFF then some .ovf else none) :
    EffectOf i s (tallyWrite (offered i) s) := by
  rcases tallyWrite_cases (offered i) s with ⟨h, e⟩ | ⟨h, e⟩ <;> rw [e]
  · exact .error .ovf (hraised.trans (if_pos h)) hsolve
  · exact .tally hoff (hraised.trans (if_neg (Nat.not_lt.mpr h))) h

theorem effect_solve {s : State} (hN : s.N ≠ 0) :
    effect .solve s = commitSolve (otsu s.H s.N) s := if_neg hN

theorem effect_emptySolve {s : State} (hN : s.N = 0) :
    effect .solve s = raiseError .empty (invalidate s) := if_pos hN

theorem effectOf_solve (s : State) : EffectOf .solve s (effect .solve s) := by
  by_cases hN : s.N = 0
  · rw [effect_emptySolve hN]
    exact .empty rfl (if_pos hN)
  · rw [effect_solve hN]
    exact .solve rfl (if_neg hN) hN

/-- The effect of every instruction is of one of the kinds. -/
theorem effectOf_effect (i : Instr) (s : State) : EffectOf i s (effect i s) := by
  cases i with
  | clear => exact .clear rfl
  | solve => exact effectOf_solve s
  | wrStatus m => exact .acknowledged m rfl
  | tally1 x => exact effectOf_tallyWrite (i := .tally1 x) nofun nofun rfl
  | tally4 x0 x1 x2 x3 =>
    exact effectOf_tallyWrite (i := .tally4 x0 x1 x2 x3) nofun nofun rfl
  | cmdBad rsv op => exact .error .cmd rfl nofun
  | tally1Bad data => exact .error .range rfl nofun
  | accBad a => exact .error .acc rfl nofun
  | nop | rdStatus | rdCount | rdThresh | rdVarlo | rdVarhi | rdBin =>
    exact .quiet rfl rfl nofun nofun nofun

section
variable {i : Instr} {s u : State} {e : ErrorClass}

/-! ### Who writes what (10_state.md R33) -/

/-- Only CLEAR and accepted tally writes change H or N. -/
theorem EffectOf.histogram (h : EffectOf i s u) :
    (u.H = s.H ∧ u.N = s.N) ∨ i = .clear ∨ (offered i ≠ [] ∧ raised i s = none) := by
  cases h with
  | quiet | error | empty | acknowledged => exact .inl ⟨rfl, rfl⟩
  | solve => exact .inl ⟨commitSolve_H .., commitSolve_N ..⟩
  | clear hi => exact .inr (.inl hi)
  | tally hoff hraised => exact .inr (.inr ⟨hoff, hraised⟩)

/-- Only CLEAR and SOLVE change THRESH or VARMAX. -/
theorem EffectOf.result (h : EffectOf i s u) :
    (u.THRESH = s.THRESH ∧ u.VARMAX = s.VARMAX) ∨ i = .clear ∨ i = .solve := by
  cases h with
  | quiet | error | acknowledged => exact .inl ⟨rfl, rfl⟩
  | empty hi => exact .inr (.inr hi)
  | solve hi => exact .inr (.inr hi)
  | clear hi => exact .inr (.inl hi)
  | tally => exact .inl ⟨tallyAll_THRESH .., tallyAll_VARMAX ..⟩

/-- Only CLEAR, SOLVE and accepted tally writes change VALID or DEGEN. -/
theorem EffectOf.validDegen (h : EffectOf i s u) :
    (u.STATUS.VALID = s.STATUS.VALID ∧ u.STATUS.DEGEN = s.STATUS.DEGEN) ∨
      i = .clear ∨ i = .solve ∨ (offered i ≠ [] ∧ raised i s = none) := by
  cases h with
  | quiet | acknowledged => exact .inl ⟨rfl, rfl⟩
  | error => exact .inl ⟨recordError_VALID .., recordError_DEGEN ..⟩
  | empty hi => exact .inr (.inr (.inl hi))
  | solve hi => exact .inr (.inr (.inl hi))
  | clear hi => exact .inr (.inl hi)
  | tally hoff hraised => exact .inr (.inr (.inr ⟨hoff, hraised⟩))

/-- CLEAR, an accepted tally write and an EMPTY SOLVE leave VALID clear. -/
theorem EffectOf.valid_cleared (h : EffectOf i s u)
    (hi : i = .clear ∨ (offered i ≠ [] ∧ raised i s = none) ∨ (i = .solve ∧ raised i s ≠ none)) :
    u.STATUS.VALID = false := by
  cases h with
  | quiet hoff hraised hclear => simp [hoff, hraised, hclear] at hi
  | error e hraised hsolve =>
    obtain rfl : i = .clear := by simpa [hraised, hsolve] using hi
    cases hraised
  | empty => exact recordError_VALID ..
  | solve hsolve hraised => subst hsolve; simp [hraised, offered] at hi
  | clear => rfl
  | acknowledged m hack => subst hack; simp [raised, offered] at hi
  | tally => rfl

/-! ### Errors (10_state.md R29) -/

/-- A sticky bit is lost only by acknowledging it. -/
theorem EffectOf.sticky_lost (h : EffectOf i s u) (hs : stickyBit e s.STATUS = true)
    (hu : stickyBit e u.STATUS = false) : ∃ m, i = .wrStatus m ∧ m.getLsbD (statusBit e) = true := by
  cases h with
  | acknowledged m hi => exact ⟨m, hi, by simpa [hs] using hu⟩
  | quiet | error | empty | solve | clear | tally => simp [hs] at hu

/-- A sticky bit is set only by raising its class. -/
theorem EffectOf.sticky_set (h : EffectOf i s u) (hs : stickyBit e s.STATUS = false)
    (hu : stickyBit e u.STATUS = true) : raised i s = some e := by
  cases h with
  | error e' hraised =>
    obtain rfl : e' = e := by simpa [hs] using hu
    exact hraised
  | empty _ hraised =>
    obtain rfl : .empty = e := by simpa [hs] using hu
    exact hraised
  | quiet | solve | clear | acknowledged | tally => simp [hs] at hu

/-- A raised error is recorded. -/
theorem EffectOf.sticky_of_raised (h : EffectOf i s u) (he : raised i s = some e) :
    stickyBit e u.STATUS = true := by
  cases h with
  | error e' hraised => simp [Option.some.inj (hraised.symm.trans he)]
  | empty _ hraised => simp [Option.some.inj (hraised.symm.trans he)]
  | quiet _ hraised => cases hraised.symm.trans he
  | tally _ hraised => cases hraised.symm.trans he
  | solve _ hraised => cases hraised.symm.trans he
  | clear hi => simp [hi, raised] at he
  | acknowledged m hi => simp [hi, raised] at he

end

/-- What an operation raises depends on N alone. -/
theorem raised_congr {a b : State} (i : Instr) (h : a.N = b.N) : raised i a = raised i b := by
  cases i <;> simp only [raised, h]

/-! ### Operations on states that differ in the errors only -/

section
variable {a b : State}

theorem sameButErrors_raiseError (e : ErrorClass) (h : sameButErrors a b) :
    sameButErrors (raiseError e a) (raiseError e b) := by
  simpa [sameButErrors] using h

theorem sameButErrors_invalidate (h : sameButErrors a b) :
    sameButErrors (invalidate a) (invalidate b) := by
  obtain ⟨hH, hN, hT, hV, -, -, hport⟩ := h
  exact ⟨hH, hN, hT, hV, rfl, rfl, hport⟩

theorem sameButErrors_acknowledge (m : Word) (h : sameButErrors a b) :
    sameButErrors (acknowledge m a) (acknowledge m b) := h

theorem sameButErrors_clearAll (h : sameButErrors a b) :
    sameButErrors (clearAll a) (clearAll b) := by
  obtain ⟨-, -, -, -, -, -, hport⟩ := h
  exact ⟨rfl, rfl, rfl, rfl, rfl, rfl, hport⟩

theorem sameButErrors_commitSolve (w : Sweep) (h : sameButErrors a b) :
    sameButErrors (commitSolve w a) (commitSolve w b) := by
  obtain ⟨hH, hN, -, -, -, -, hport⟩ := h
  simp [sameButErrors, hH, hN, hport]

theorem sameButErrors_tally (x : Byte) (h : sameButErrors a b) :
    sameButErrors (tally x a) (tally x b) := by
  obtain ⟨hH, hN, hrest⟩ := h
  refine ⟨?_, congrArg (· + 1) hN, hrest⟩
  simp only [tally_H, bin_congr hH, hH]

theorem sameButErrors_tallyAll (xs : List Byte) (h : sameButErrors a b) :
    sameButErrors (tallyAll xs a) (tallyAll xs b) := by
  induction xs generalizing a b with
  | nil => exact h
  | cons x xs ih => exact ih (sameButErrors_tally x h)

theorem sameButErrors_tallyWrite (xs : List Byte) (h : sameButErrors a b) :
    sameButErrors (tallyWrite xs a) (tallyWrite xs b) := by
  obtain ⟨-, hN, -⟩ := id h
  rcases tallyWrite_cases xs a with ⟨hk, e⟩ | ⟨hk, e⟩ <;> rw [e]
  · rw [tallyWrite_refused (hN ▸ hk)]
    exact sameButErrors_raiseError .ovf h
  · rw [tallyWrite_accepted (hN ▸ hk)]
    exact sameButErrors_invalidate (sameButErrors_tallyAll xs h)

theorem sameButErrors_solve (h : sameButErrors a b) :
    sameButErrors (effect .solve a) (effect .solve b) := by
  obtain ⟨hH, hN, -⟩ := id h
  simp only [effect, hH, hN]
  split
  · exact sameButErrors_raiseError .empty (sameButErrors_invalidate h)
  · exact sameButErrors_commitSolve _ h

/-- No effect depends on the errors outstanding (10_state.md R29). -/
theorem sameButErrors_effect (i : Instr) (h : sameButErrors a b) :
    sameButErrors (effect i a) (effect i b) := by
  cases i with
  | clear => exact sameButErrors_clearAll h
  | solve => exact sameButErrors_solve h
  | wrStatus m => exact sameButErrors_acknowledge m h
  | tally1 x => exact sameButErrors_tallyWrite _ h
  | tally4 x0 x1 x2 x3 => exact sameButErrors_tallyWrite _ h
  | cmdBad | tally1Bad | accBad => exact sameButErrors_raiseError _ h
  | nop | rdStatus | rdCount | rdThresh | rdVarlo | rdVarhi | rdBin => exact h

theorem sameButErrors_after (i : Instr) (h : sameButErrors a b) :
    sameButErrors (after i a) (after i b) := by
  obtain ⟨hH, hN, hT, hV, hval, hdeg, htx, hpend⟩ := sameButErrors_effect i h
  exact ⟨hH, hN, hT, hV, hval, hdeg, congrArg (· + 1) htx, hpend⟩

/-- No response but RD.STATUS's depends on the errors outstanding. -/
theorem rdata_congr {i : Instr} (hi : i ≠ .rdStatus) (h : sameButErrors a b) :
    rdata i a = rdata i b := by
  obtain ⟨hH, hN, hT, hV, -⟩ := h
  cases i with
  | rdStatus => exact absurd rfl hi
  | rdBin v => exact bin_congr hH v
  | _ => simp only [rdata, threshWord, varmaxLo, varmaxHi, hN, hT, hV]

end

/-! ### The invariant -/

/-- The invariant is about HAOS's registers alone. -/
theorem Inv.congr {a b : State} (hb : Inv b) (h : sameRegisters a b) : Inv a := by
  cases a
  cases b
  obtain ⟨rfl, rfl, rfl, rfl, rfl⟩ := h
  exact { hb with }

/-- Settles O49: the reset state is empty, without a result and without an error. -/
theorem resetHasInvariant : Obligations.ResetHasInvariant where
  conserved := binSum_zero.symm
  current := by simp [ResultCurrent]
  degenValid := by simp
  degenZero := by simp
  causeSticky := by decide
  causeLegal := by decide
  varmaxSign := rfl
  emptyZero := fun _ => ⟨rfl, rfl⟩

section
variable {s : State}

theorem inv_raiseError (e : ErrorClass) (h : Inv s) : Inv (raiseError e s) where
  conserved := h.conserved
  current := by cases e <;> exact h.current
  degenValid := by simpa using h.degenValid
  degenZero := by simpa using h.degenZero
  causeSticky := iff_of_false (recordError_CAUSE_ne_zero e s.STATUS) (by simp)
  causeLegal := by
    rw [raiseError_STATUS, recordError_CAUSE]
    split
    · exact errorCode_le e
    · exact h.causeLegal
  varmaxSign := h.varmaxSign
  emptyZero := h.emptyZero

/-- While a sticky bit is kept it was set before, so CAUSE is kept and not 0. -/
theorem inv_acknowledge (m : Word) (h : Inv s) : Inv (acknowledge m s) := by
  refine { h with causeSticky := ?_, causeLegal := ?_ } <;>
    rw [acknowledge_STATUS, clearSticky_CAUSE]
  · split
    next hkept =>
      have hset : s.STATUS.CAUSE ≠ 0 := fun hc => by
        simpa [anySticky_of_clearSticky hkept] using h.causeSticky.mp hc
      exact iff_of_false hset (by simp [hkept])
    next hnone => exact iff_of_true rfl (by simpa using hnone)
  · split
    · exact h.causeLegal
    · decide

/-- A result no longer called valid claims nothing. -/
theorem inv_invalidate (h : Inv s) : Inv (invalidate s) :=
  { h with current := nofun, degenValid := nofun, degenZero := nofun }

theorem inv_clearAll (h : Inv s) : Inv (clearAll s) :=
  { inv_invalidate h with
    conserved := binSum_zero.symm
    current := nofun
    degenZero := nofun
    varmaxSign := by simp
    emptyZero := fun _ => ⟨rfl, rfl⟩ }

/-- Within COUNT_MAX, N counts the tallies without wrap-around (40_histogram.md R107). -/
theorem tallyAll_N_toNat {xs : List Byte} (hfits : s.N.toNat + xs.length ≤ 0xFFFFFFFF) :
    (tallyAll xs s).N.toNat = s.N.toNat + xs.length := by
  rw [tallyAll_N, BitVec.toNat_add, BitVec.toNat_ofNat]
  omega

/-- A tally write within COUNT_MAX wraps nothing, so N = 0 after it only if N was 0 before. -/
theorem inv_tallied {xs : List Byte} (h : Inv s) (hfits : s.N.toNat + xs.length ≤ 0xFFFFFFFF) :
    Inv (invalidate (tallyAll xs s)) where
  conserved := conserved_congr rfl rfl (conserved_tallyAll h.conserved hfits)
  current := nofun
  degenValid := nofun
  degenZero := nofun
  causeSticky := by simpa using h.causeSticky
  causeLegal := by simpa using h.causeLegal
  varmaxSign := by simpa using h.varmaxSign
  emptyZero := by
    intro hN
    have hsum : s.N.toNat + xs.length = 0 :=
      (tallyAll_N_toNat hfits).symm.trans (congrArg BitVec.toNat hN)
    simpa using h.emptyZero (BitVec.eq_of_toNat_eq (Nat.eq_zero_of_add_eq_zero_right hsum))

theorem otsu_best_sign (H : Vector Word 256) (N : Word) :
    (otsu H N).best.getLsbD 63 = false := by
  rw [otsu_eq]
  exact sweepFrom_best_sign _ _ _ _ rfl

theorem inv_commitSolve (h : Inv s) (hN : s.N ≠ 0) : Inv (commitSolve (otsu s.H s.N) s) where
  conserved := conserved_congr (by simp) (by simp) h.conserved
  current := by simpa [ResultCurrent] using hN
  degenValid := by simp
  degenZero := by simp +contextual
  causeSticky := by simpa using h.causeSticky
  causeLegal := by simpa using h.causeLegal
  varmaxSign := by
    rw [commitSolve_VARMAX]
    split
    · exact otsu_best_sign s.H s.N
    · rfl
  emptyZero := fun h0 => absurd (by simpa using h0) hN

theorem EffectOf.inv {i : Instr} {u : State} (h : EffectOf i s u) (hs : Inv s) : Inv u := by
  cases h with
  | quiet => exact hs
  | error e => exact inv_raiseError e hs
  | empty => exact inv_raiseError .empty (inv_invalidate hs)
  | solve _ _ hN => exact inv_commitSolve hs hN
  | clear => exact inv_clearAll hs
  | acknowledged m => exact inv_acknowledge m hs
  | tally _ _ hfits => exact inv_tallied hs hfits

theorem inv_after (i : Instr) (h : Inv s) : Inv (after i s) :=
  ((effectOf_effect i s).inv h).congr ⟨rfl, rfl, rfl, rfl, rfl⟩

/-! ### Steps and runs -/

/-- Every step answers a state: with the registers kept, with those of reset, or after a transaction. -/
theorem step_cases (s : State) : ∃ t, step s = .next t ∧
    (sameRegisters t s ∨ sameRegisters t State.reset ∨ ∃ i es, t = after i (withPending es s)) := by
  rcases hp : s.pending with _ | ⟨ev, es⟩
  · exact ⟨idle s, step_idle hp, .inl ⟨rfl, rfl, rfl, rfl, rfl⟩⟩
  cases ev with
  | request t =>
    exact ⟨_, (step_request hp).trans (exec_eq ..), .inr (.inr ⟨decode t, es, rfl⟩)⟩
  | reset => exact ⟨_, step_reset hp, .inr (.inl (resetEvent_registers _))⟩
  | resetDuring t => exact ⟨_, step_resetDuring hp, .inr (.inl (resetOutstanding_registers _))⟩

/-- What every step keeps holds after any number of steps. -/
theorem run_keeps {P : State → Prop} (hstep : ∀ s t, P s → step s = .next t → P t) (n : Nat)
    (h : P s) : ∃ t, Host.Core.run Sys2Proof.core n s = .next t ∧ P t := by
  induction n generalizing s with
  | zero => exact ⟨s, rfl, h⟩
  | succ n ih =>
    obtain ⟨u, hu, -⟩ := step_cases s
    rw [run_succ_of_step n hu]
    exact ih (hstep s u h hu)

end

/-- Settles O48: a step keeps the registers, resets them, or performs one instruction. -/
theorem stepKeepsInvariant : Obligations.StepKeepsInvariant := by
  intro s t hs h
  obtain ⟨u, hu, hcases⟩ := step_cases s
  obtain rfl : u = t := Host.Outcome.next.inj (hu.symm.trans h)
  rcases hcases with hsame | hreset | ⟨i, es, rfl⟩
  · exact hs.congr hsame
  · exact Inv.congr resetHasInvariant hreset
  · exact inv_after i (hs.congr ⟨rfl, rfl, rfl, rfl, rfl⟩)

/-- Every run from reset goes on, in states that have the invariant. -/
theorem reaches_inv (es : List PortEvent) (n : Nat) : ∃ s, reaches es n s ∧ Inv s :=
  run_keeps stepKeepsInvariant n (Inv.congr resetHasInvariant ⟨rfl, rfl, rfl, rfl, rfl⟩)

/-! ### The statements of 10_state.md -/

/-- Settles O14: every field of the reset state is 0 by definition. -/
theorem resetValues : Obligations.ResetValues :=
  ⟨bin_reset, rfl, rfl, rfl, by decide, rfl, rfl, rfl, rfl, rfl, rfl, rfl, rfl⟩

/-- Settles O50: conservation is part of the invariant, and no bin exceeds the sum of all. -/
theorem reachableHistogramIsConserved : Obligations.ReachableHistogramIsConserved := by
  intro es n
  obtain ⟨s, hs, hinv⟩ := reaches_inv es n
  have hsum : s.N.toNat = binSum s.H := hinv.conserved
  exact ⟨s, hs, hsum, fun v => ⟨hsum ▸ bin_le_binSum s v, Nat.le_of_lt_succ s.N.isLt⟩⟩

/-- Settles O51: the clauses on CAUSE and DEGEN are part of the invariant. -/
theorem reachableStatusIsSound : Obligations.ReachableStatusIsSound := by
  intro es n
  obtain ⟨s, hs, hinv⟩ := reaches_inv es n
  exact ⟨s, hs, hinv.causeSticky.trans (anySticky_eq_false_iff s.STATUS), hinv.causeLegal,
    fun hd => ⟨hinv.degenValid hd, hinv.degenZero hd⟩⟩

/-- Settles O46: each kind of effect changes only the registers it writes. -/
theorem registersHaveOnlyTheirWriters : Obligations.RegistersHaveOnlyTheirWriters := by
  intro i s
  have h := effectOf_effect i s
  refine ⟨after i s, exec_eq i s, fun hne => ?_, fun hne => ?_, fun hne => ?_⟩
  · rcases h.histogram with ⟨hH, hN⟩ | hi | ⟨hoff, -⟩
    · simp [hH, hN] at hne
    · exact .inl hi
    · exact .inr hoff
  · rcases h.result with ⟨hT, hV⟩ | hi
    · simp [hT, hV] at hne
    · exact hi
  · rcases h.validDegen with ⟨hval, hdeg⟩ | hi | hi | ⟨hoff, -⟩
    · simp [hval, hdeg] at hne
    · exact .inl hi
    · exact .inr (.inl hi)
    · exact .inr (.inr hoff)

/-- Settles O45: the kinds of effect say which sticky bits change, and no effect or response but
RD.STATUS's reads the errors. -/
theorem stickyErrorsPersistAndBlockNothing : Obligations.StickyErrorsPersistAndBlockNothing := by
  refine ⟨fun i s t e h hs ht => ?_, fun i s t e h hs ht => ?_, fun s e => stickyBit_reset e,
    fun i a b h => ?_⟩
  · obtain rfl := exec_next h
    exact (effectOf_effect i s).sticky_lost hs ht
  · obtain rfl := exec_next h
    exact (effectOf_effect i s).sticky_set hs ht
  · refine ⟨after i a, after i b, exec_eq i a, exec_eq i b, sameButErrors_after i h,
      fun hi => congrArg some (rdata_congr hi h), fun e he => ?_⟩
    obtain ⟨-, hN, -⟩ := h
    have he' : raised i b = some e := raised_congr i hN ▸ he
    exact ⟨(effectOf_effect i a).sticky_of_raised he, (effectOf_effect i b).sticky_of_raised he'⟩

/-- With VALID set the invariant says that a solve commits the present result again. -/
theorem solve_of_valid {s : State} (h : Inv s) (hv : s.STATUS.VALID = true) :
    (after .solve s).THRESH = s.THRESH ∧ (after .solve s).VARMAX = s.VARMAX ∧
    (after .solve s).STATUS.DEGEN = s.STATUS.DEGEN ∧ (after .solve s).STATUS.VALID = true := by
  obtain ⟨hN, hT, hV, hD⟩ := h.current hv
  simp [effect_solve hN, hT, hV, hD]

theorem solve_keeps_histogram (s : State) :
    (after .solve s).H = s.H ∧ (after .solve s).N = s.N := by
  rcases (effectOf_effect .solve s).histogram with h | h | ⟨h, -⟩
  · exact h
  · cases h
  · exact absurd rfl h

/-- Settles O52: the first clause is the invariant's `current`, the others are what each kind of effect
does to the histogram and to VALID. -/
theorem validMeansCurrentResult : Obligations.ValidMeansCurrentResult := by
  refine ⟨fun s h hv => ⟨_, exec_eq .solve s, solve_of_valid h hv⟩,
    fun s => ⟨_, exec_eq .solve s, solve_keeps_histogram s⟩,
    fun i s t h hcases => ?_, fun i s t h hclear hsolve hkeep => ?_⟩
  · obtain rfl := exec_next h
    have heff := effectOf_effect i s
    refine heff.valid_cleared ?_
    rcases heff.histogram with ⟨hH, hN⟩ | hi | hi
    · simpa [hH, hN] using hcases
    · exact .inl hi
    · exact .inr (.inl hi)
  · obtain rfl := exec_next h
    rcases (effectOf_effect i s).validDegen with ⟨hval, -⟩ | hi | hi | ⟨hoff, hraised⟩
    · exact hval
    · exact absurd hi hclear
    · exact absurd hi hsolve
    · exact hkeep.elim (absurd · hoff) (absurd hraised ·)

end Sys2Proof.Machine
end

/-! ### The address window (20_memory.md R52 to R55) -/

section
namespace Sys2Proof

/-- The DATA of a read does not reach the decoded operation (30_encoding.md R70). -/
theorem decode_read_data (sz : BitVec 2) (off : Offset) (d d' : Word) :
    decode (mkT false sz off d) = decode (mkT false sz off d') := by
  simp only [decode_mkT, Bool.false_eq_true, false_and, if_false]

theorem decode_badRead {sz : BitVec 2} {off : Offset}
    (h : (BadAccess.read sz off).unsupported = true) (d : Word) :
    decode (mkT false sz off d) = .accBad (.read sz off) :=
  (decode_read_data sz off d 0).trans (decode_encode_badRead h)

/-- A word read at a readable register is its operation, whatever its DATA. -/
theorem decode_wordRead {i : Instr} {off : Offset} (hi : i.wellFormed = true)
    (he : encode i = readT off) (d : Word) : decode (mkT false 2 off d) = i := by
  rw [decode_read_data 2 off d 0]
  exact (congrArg decode he).symm.trans (decode_encode i hi)

/-- The bin window holds the bins in order, four bytes each (30_encoding.md R76). -/
theorem binOffset_toNat (v : Byte) : (binOffset v).toNat = 0x400 + 4 * v.toNat := by
  revert v; decide

/-- Every aligned offset of the bin window is the offset of a bin. -/
theorem eq_binOffset {off : Offset} (hal : off.toNat % 4 = 0) (hge : 0x400 ≤ off.toNat) :
    off = binOffset (BitVec.ofNat 8 ((off.toNat - 0x400) / 4)) := by
  apply BitVec.eq_of_toNat_eq
  rw [binOffset_toNat, BitVec.toNat_ofNat]
  omega

/-- The command words (30_encoding.md R73). -/
theorem decode_command (d : Word) : decode (mkT true 2 0x000 d) =
    if d = 0 then .nop else if d = 1 then .clear else if d = 2 then .solve
    else .cmdBad (d.extractLsb' 8 24) (d.extractLsb' 0 8) := by
  simp [decode_mkT]

/-- The SAMPLE1 operand (30_encoding.md R74). -/
theorem decode_sample1 (d : Word) : decode (mkT true 2 0x008 d) =
    if d.toNat ≤ 255 then .tally1 (d.extractLsb' 0 8) else .tally1Bad d := by
  simp [decode_mkT, ← and_high_eq_zero]

/-- The SAMPLE4 operand (30_encoding.md R75). -/
theorem decode_sample4 (d : Word) : decode (mkT true 2 0x00C d) =
    .tally4 (d.extractLsb' 0 8) (d.extractLsb' 8 8) (d.extractLsb' 16 8) (d.extractLsb' 24 8) := by
  simp [decode_mkT]

/-- A wrong size, a misaligned offset or one in the reserved range (20_memory.md R52, R54, R55). -/
def badPlace (sz : BitVec 2) (off : Offset) : Prop :=
  sz ≠ 2 ∨ off.toNat % 4 ≠ 0 ∨ (0x020 ≤ off.toNat ∧ off.toNat ≤ 0x3FF)

theorem unsupported_write_iff {sz : BitVec 2} {off : Offset} {d : Word} :
    (BadAccess.write sz off d).unsupported = true ↔ badPlace sz off ∨ readOnly off = true := by
  simp [BadAccess.unsupported, misaligned, reservedOffset, badPlace, or_assoc]

theorem unsupported_read_iff {sz : BitVec 2} {off : Offset} :
    (BadAccess.read sz off).unsupported = true ↔ badPlace sz off ∨ writeOnly off = true := by
  simp [BadAccess.unsupported, misaligned, reservedOffset, badPlace, or_assoc]

/-- The write column of the map: what is left after the writable registers is read-only. -/
theorem decode_write (sz : BitVec 2) (off : Offset) (d : Word) : decode (mkT true sz off d) =
    if sz ≠ 2 ∨ off.toNat % 4 ≠ 0 ∨ (0x020 ≤ off.toNat ∧ off.toNat ≤ 0x3FF) then
      .accBad (.write sz off d)
    else if off = 0x000 then
      (if d = 0 then .nop else if d = 1 then .clear else if d = 2 then .solve
        else .cmdBad (d.extractLsb' 8 24) (d.extractLsb' 0 8))
    else if off = 0x004 then .wrStatus d
    else if off = 0x008 then
      (if d.toNat ≤ 255 then .tally1 (d.extractLsb' 0 8) else .tally1Bad d)
    else if off = 0x00C then
      .tally4 (d.extractLsb' 0 8) (d.extractLsb' 8 8) (d.extractLsb' 16 8) (d.extractLsb' 24 8)
    else .accBad (.write sz off d) := by
  split
  next hbad => exact decode_encode_badWrite (unsupported_write_iff.mpr (.inl hbad))
  next hgood =>
    simp only [not_or, not_not] at hgood
    obtain ⟨rfl, hal, hres⟩ := hgood
    by_cases h0 : off = 0x000
    · subst h0
      exact decode_command d
    by_cases h4 : off = 0x004
    · subst h4
      exact decode_encode (.wrStatus d) rfl
    by_cases h8 : off = 0x008
    · subst h8
      exact decode_sample1 d
    by_cases hC : off = 0x00C
    · subst hC
      exact decode_sample4 d
    have hro : readOnly off = true := by
      simp only [readOnly, Bool.or_eq_true, decide_eq_true_eq]
      bv_omega
    rw [if_neg h0, if_neg h4, if_neg h8, if_neg hC]
    exact decode_encode_badWrite (unsupported_write_iff.mpr (.inr hro))

/-- The read column of the map: what is left after the readable registers is write-only. -/
theorem decode_read (sz : BitVec 2) (off : Offset) (d : Word) : decode (mkT false sz off d) =
    if sz ≠ 2 ∨ off.toNat % 4 ≠ 0 ∨ (0x020 ≤ off.toNat ∧ off.toNat ≤ 0x3FF) then
      .accBad (.read sz off)
    else if off = 0x004 then .rdStatus
    else if off = 0x010 then .rdCount
    else if off = 0x014 then .rdThresh
    else if off = 0x018 then .rdVarlo
    else if off = 0x01C then .rdVarhi
    else if 0x400 ≤ off.toNat then .rdBin (BitVec.ofNat 8 ((off.toNat - 0x400) / 4))
    else .accBad (.read sz off) := by
  split
  next hbad => exact decode_badRead (unsupported_read_iff.mpr (.inl hbad)) d
  next hgood =>
    simp only [not_or, not_not] at hgood
    obtain ⟨rfl, hal, hres⟩ := hgood
    split_ifs with h4 h10 h14 h18 h1C hbin
    · exact h4 ▸ decode_wordRead rfl rfl d
    · exact h10 ▸ decode_wordRead rfl rfl d
    · exact h14 ▸ decode_wordRead rfl rfl d
    · exact h18 ▸ decode_wordRead rfl rfl d
    · exact h1C ▸ decode_wordRead rfl rfl d
    · exact decode_wordRead (i := .rdBin _) rfl (congrArg readT (eq_binOffset hal hbin).symm) d
    · have hwo : writeOnly off = true := by
        simp only [writeOnly, Bool.or_eq_true, decide_eq_true_eq]
        bv_omega
      exact decode_badRead (unsupported_read_iff.mpr (.inr hwo)) d

/-- Settles O10: the write column and the read column of the map. -/
theorem addressMapDecodes : Obligations.AddressMapDecodes := fun sz off d =>
  ⟨decode_write sz off d, decode_read sz off d⟩

/-- An access that is not an aligned 32-bit one is ACC.BAD (20_memory.md R54, R55). -/
theorem decode_unaligned {t : TWord} (h : sizeField t ≠ 2 ∨ (offField t).extractLsb' 0 2 ≠ 0) :
    ∃ a, decode t = .accBad a := by
  have hbad : badPlace (sizeField t) (offField t) := by
    refine h.imp_right fun hoff => .inl fun hal => hoff (BitVec.eq_of_toNat_eq ?_)
    simpa using hal
  rw [← mkT_fields t]
  cases isWrite t with
  | true => exact ⟨_, decode_encode_badWrite (unsupported_write_iff.mpr (.inl hbad))⟩
  | false => exact ⟨_, decode_badRead (unsupported_read_iff.mpr (.inl hbad)) _⟩

end Sys2Proof

namespace Sys2Proof.Machine

/-- Settles O11: such an access is ACC.BAD, whose whole effect is the record of its error. -/
theorem onlyAlignedWordsAreSupported : Obligations.OnlyAlignedWordsAreSupported := by
  intro s t h
  obtain ⟨a, ha⟩ := decode_unaligned h
  rw [ha, exec_eq]
  rfl

/-! ### The window in the platform's address space (20_memory.md R53) -/

theorem windowOffset_inside {a : Nat} (hlo : Config.base ≤ a) (hhi : a ≤ Config.base + 2047) :
    windowOffset a = some (BitVec.ofNat 11 (a - Config.base)) := if_pos ⟨hlo, hhi⟩

theorem windowOffset_outside {a : Nat} (h : a < Config.base ∨ Config.base + 2047 < a) :
    windowOffset a = none := if_neg (by omega)

/-- Settles O12: the window holds 2048 addresses, so the offset of one inside it fits 11 bits. -/
theorem windowForwarding : Obligations.WindowForwarding := by
  refine ⟨⟨Config.basePage, rfl⟩, fun a n v => ⟨fun hlo hhi => ?_, fun hout => ?_⟩⟩
  · refine ⟨BitVec.ofNat 11 (a - Config.base), ?_, ?_, ?_⟩
    · rw [BitVec.toNat_ofNat]
      omega
    · rw [hostRead, windowOffset_inside hlo hhi, Option.map_some]
    · rw [hostWrite, windowOffset_inside hlo hhi, Option.map_some]
  · rw [hostRead, hostWrite, windowOffset_outside hout]
    exact ⟨rfl, rfl⟩

/-! ### Responses (20_memory.md R56) -/

/-- Every write's response carries 0. -/
theorem rdata_write {t : TWord} (h : isWrite t = true) (s : State) : rdata (decode t) s = 0 := by
  rw [← mkT_fields t, h, decode_write]
  split_ifs <;> rfl

/-- Bits 31:12 of the status word are 0 (42_control.md R153). -/
theorem statusWord_getLsbD_of_le (st : Status) {i : Nat} (hi : 12 ≤ i) :
    (statusWord st).getLsbD i = false := by
  simp only [statusWord, BitVec.getLsbD_append]
  simp (disch := omega) only [if_neg, BitVec.getLsbD_zero]

theorem statusWord_reserved (st : Status) :
    (statusWord st).getLsbD 7 = false ∧ (statusWord st).extractLsb' 12 20 = 0 := by
  constructor
  · simp only [statusWord, BitVec.getLsbD_append]
    simp
  · apply BitVec.eq_of_getLsbD_eq
    intro i _
    rw [BitVec.getLsbD_extractLsb', statusWord_getLsbD_of_le st (by omega), Bool.and_false]
    exact BitVec.getLsbD_zero.symm

theorem threshWord_reserved (s : State) : (threshWord s).extractLsb' 8 24 = 0 := by
  rw [threshWord, BitVec.setWidth_eq_append (by decide)]
  exact BitVec.extractLsb'_append_eq_left

/-- Settles O19: the responses of the map's writes, of ACC.BAD, of RD.STATUS and of RD.THRESH. -/
theorem writesAndRefusedReadsRespondZero : Obligations.WritesAndRefusedReadsRespondZero := by
  refine ⟨fun t s hw => ⟨_, exec_eq .., congrArg some (rdata_write hw s)⟩,
    fun t s a _ ha => ⟨_, exec_eq .., ?_⟩,
    fun s => ⟨_, statusWord s.STATUS, exec_eq .., rfl, statusWord_reserved s.STATUS⟩,
    fun s => ⟨_, threshWord s, exec_eq .., rfl, threshWord_reserved s⟩⟩
  rw [ha]
  rfl

/-! ### Reads (20_memory.md R58, R59) -/

/-- A read is ACC.BAD or leaves the state as it is. -/
theorem accBad_or_effect_read {t : TWord} (h : isWrite t = false) (s : State) :
    (∃ a, decode t = .accBad a) ∨ effect (decode t) s = s := by
  rw [← mkT_fields t, h, decode_read]
  split_ifs
  exacts [.inl ⟨_, rfl⟩, .inr rfl, .inr rfl, .inr rfl, .inr rfl, .inr rfl, .inr rfl, .inl ⟨_, rfl⟩]

/-- A response depends on HAOS's registers alone. -/
theorem rdata_of_sameRegisters {a b : State} (h : sameRegisters a b) (i : Instr) :
    rdata i a = rdata i b := by
  obtain ⟨hH, hN, hT, hV, hS⟩ := h
  cases i with
  | rdBin v => exact bin_congr hH v
  | _ => simp only [rdata, threshWord, varmaxLo, varmaxHi, hN, hT, hV, hS]

/-- Settles O47: a read that is not ACC.BAD has no effect, and so gives its response again. -/
theorem supportedReadsChangeNothing : Obligations.SupportedReadsChangeNothing := by
  intro t s hw
  refine ⟨fun hgood => ?_, ?_⟩
  · have heff : effect (decode t) s = s :=
      (accBad_or_effect_read hw s).resolve_left fun ⟨a, ha⟩ => hgood a ha
    have hsame : sameRegisters (after (decode t) s) s := by
      simp [sameRegisters, heff]
    exact ⟨_, _, exec_eq .., hsame, exec_eq .., congrArg some (rdata_of_sameRegisters hsame _)⟩
  · rintro ⟨a, ha⟩
    rw [ha]
    exact ⟨_, exec_eq .., rfl⟩

theorem execAll_cons (i : Instr) (is : List Instr) (s : State) :
    execAll (i :: is) s = execAll is (after i s) := by
  rw [execAll, exec_eq]

/-- Only SOLVE and CLEAR change VARMAX. -/
theorem execAll_VARMAX {is : List Instr} {s t : State} (his : ∀ i ∈ is, i ≠ .solve ∧ i ≠ .clear)
    (h : execAll is s = .next t) : t.VARMAX = s.VARMAX := by
  induction is generalizing s with
  | nil => rw [Host.Outcome.next.inj h]
  | cons i is ih =>
    obtain ⟨⟨hsolve, hclear⟩, hrest⟩ := List.forall_mem_cons.mp his
    rw [execAll_cons] at h
    rw [ih hrest h]
    rcases (effectOf_effect i s).result with ⟨-, hV⟩ | hi | hi
    · exact hV
    · exact absurd hi hclear
    · exact absurd hi hsolve

theorem varmax_halves (s : State) :
    (varmaxHi s ++ varmaxLo s : BitVec (32 + 32)) = s.VARMAX :=
  (BitVec.extractLsb'_append_extractLsb'_eq_extractLsb' (start₁ := 0) (len₁ := 32) rfl).trans
    BitVec.extractLsb'_eq_self

/-- Settles O38: VARMAX is still that of the first read when the second one answers. -/
theorem splitVarianceReadsAgree : Obligations.SplitVarianceReadsAgree := by
  intro s t u v is hlo his hmid hhi
  obtain rfl := exec_next hlo
  obtain rfl := exec_next hhi
  refine ⟨varmaxLo s, varmaxHi u, rfl, rfl, ?_⟩
  have hV : u.VARMAX = s.VARMAX := (execAll_VARMAX his hmid).trans rfl
  rw [varmaxHi, hV]
  exact varmax_halves s

end Sys2Proof.Machine
end

section
namespace Sys2Proof

/-! ### Operand fields as numbers (30_encoding.md R72 to R75) -/

/-- A field is the word divided by the weight of the field's lowest bit. -/
theorem extractLsb'_eq_ofNat_div (start len : Nat) (d : Word) :
    d.extractLsb' start len = BitVec.ofNat len (d.toNat / 2 ^ start) := by
  rw [BitVec.extractLsb', Nat.shiftRight_eq_div_pow]

/-- A sample value is its low byte (30_encoding.md R74). -/
theorem lowByte_toNat {d : Word} (h : d.toNat ≤ 255) : (d.extractLsb' 0 8).toNat = d.toNat := by
  rw [extractLsb'_eq_ofNat_div, BitVec.toNat_ofNat]
  omega

theorem reservedCommand_iff {rsv : BitVec 24} {op : Byte} :
    reservedCommand rsv op = true ↔ rsv ≠ 0 ∨ 3 ≤ op.toNat := by
  simp [reservedCommand]

/-- A command word is reserved when it is none of NOP, CLEAR and SOLVE (30_encoding.md R72, R73). -/
theorem reservedCommand_of_ne {d : Word} (h0 : d ≠ 0) (h1 : d ≠ 1) (h2 : d ≠ 2) :
    reservedCommand (d.extractLsb' 8 24) (d.extractLsb' 0 8) = true := by
  have hd : 3 ≤ d.toNat := by bv_omega
  have hlt : d.toNat < 2 ^ 32 := d.isLt
  refine reservedCommand_iff.mpr (or_iff_not_imp_left.mpr fun hne => ?_)
  have hrsv : d.extractLsb' 8 24 = 0 := not_not.mp hne
  have hhigh : d.toNat / 2 ^ 8 % 2 ^ 24 = 0 := by
    simpa [extractLsb'_eq_ofNat_div] using congrArg BitVec.toNat hrsv
  rw [lowByte_toNat (by omega)]
  exact hd

/-- The two fields of a command word make it up (30_encoding.md R72). -/
theorem command_join (d : Word) :
    (d.extractLsb' 8 24 ++ d.extractLsb' 0 8 : BitVec (24 + 8)) = d :=
  (BitVec.extractLsb'_append_extractLsb'_eq_extractLsb' (start₁ := 0) (len₁ := 8) rfl).trans
    BitVec.extractLsb'_eq_self

/-- The four lanes of a SAMPLE4 word make it up (30_encoding.md R75). -/
theorem lanes_join (d : Word) :
    (d.extractLsb' 24 8 ++ d.extractLsb' 16 8 ++ d.extractLsb' 8 8 ++ d.extractLsb' 0 8 :
      BitVec (8 + 8 + 8 + 8)) = d := by
  rw [BitVec.extractLsb'_append_extractLsb'_eq_extractLsb' (by decide),
    BitVec.extractLsb'_append_extractLsb'_eq_extractLsb' (by decide),
    BitVec.extractLsb'_append_extractLsb'_eq_extractLsb' (by decide)]
  exact BitVec.extractLsb'_eq_self

/-- A sample value is its low byte again as a word (30_encoding.md R74). -/
theorem sample_join {d : Word} (h : d.toNat ≤ 255) : (d.extractLsb' 0 8).setWidth 32 = d := by
  apply BitVec.eq_of_toNat_eq
  rw [BitVec.toNat_setWidth, lowByte_toNat h]
  exact Nat.mod_eq_of_lt d.isLt

/-! ### The offsets of the bins (30_encoding.md R76) -/

theorem binOffset_eq_ofNat (v : Byte) : BitVec.ofNat 11 (0x400 + 4 * v.toNat) = binOffset v := by
  rw [← binOffset_toNat, BitVec.ofNat_toNat, BitVec.setWidth_eq]

/-- OFF[9:2] of a bin's offset is the bin's index (30_encoding.md R76). -/
theorem binOffset_index (v : Byte) : (binOffset v).extractLsb' 2 8 = v := by
  revert v; decide

/-- Every offset with OFF[10] = 1 and OFF[1:0] = 0 is a bin's (30_encoding.md R76). -/
theorem exists_binOffset {off : Offset} (hbin : off.getLsbD 10 = true)
    (hal : off.extractLsb' 0 2 = 0) : ∃ v, off = binOffset v :=
  ⟨_, eq_binOffset (by simpa using congrArg BitVec.toNat hal) (Nat.ge_two_pow_of_testBit hbin)⟩

/-! ### The accesses that remain for ACC.BAD -/

theorem not_badPlace_iff {sz : BitVec 2} {off : Offset} : ¬ badPlace sz off ↔
    sz = 2 ∧ off.toNat % 4 = 0 ∧ ¬ (0x020 ≤ off.toNat ∧ off.toNat ≤ 0x3FF) := by
  simp only [badPlace, not_or, not_not]

/-- A good place that no writable register has is a read-only register's. -/
theorem readOnly_of_unwritable {off : Offset} (hgood : ¬ badPlace 2 off) (h0 : off ≠ 0x000)
    (h4 : off ≠ 0x004) (h8 : off ≠ 0x008) (hC : off ≠ 0x00C) : readOnly off = true := by
  obtain ⟨-, hal, hres⟩ := not_badPlace_iff.mp hgood
  simp only [readOnly, Bool.or_eq_true, decide_eq_true_eq]
  bv_omega

/-- A good place that no readable register has is a write-only port's. -/
theorem writeOnly_of_unreadable {off : Offset} (hgood : ¬ badPlace 2 off) (h4 : off ≠ 0x004)
    (h10 : off ≠ 0x010) (h14 : off ≠ 0x014) (h18 : off ≠ 0x018) (h1C : off ≠ 0x01C)
    (hbin : ¬ 0x400 ≤ off.toNat) : writeOnly off = true := by
  obtain ⟨-, hal, hres⟩ := not_badPlace_iff.mp hgood
  simp only [writeOnly, Bool.or_eq_true, decide_eq_true_eq]
  bv_omega

/-! ### What a write and a read decode to -/

theorem wellFormed_decode_write (sz : BitVec 2) (off : Offset) (d : Word) :
    (decode (mkT true sz off d)).wellFormed = true := by
  rw [decode_write]
  split_ifs with hbad h0 hnop hclear hsolve h4 h8 hfits hC
  · exact unsupported_write_iff (d := d).mpr (.inl hbad)
  · rfl
  · rfl
  · rfl
  · exact reservedCommand_of_ne hnop hclear hsolve
  · rfl
  · rfl
  · exact decide_eq_true (not_le.mp hfits)
  · rfl
  · obtain ⟨rfl, -, -⟩ := not_badPlace_iff.mp hbad
    exact unsupported_write_iff (d := d).mpr (.inr (readOnly_of_unwritable hbad h0 h4 h8 hC))

theorem wellFormed_decode_read (sz : BitVec 2) (off : Offset) (d : Word) :
    (decode (mkT false sz off d)).wellFormed = true := by
  rw [decode_read]
  split_ifs with hbad h4 h10 h14 h18 h1C hbin
  · exact unsupported_read_iff.mpr (.inl hbad)
  iterate 6 · rfl
  · obtain ⟨rfl, -, -⟩ := not_badPlace_iff.mp hbad
    exact unsupported_read_iff.mpr (.inr (writeOnly_of_unreadable hbad h4 h10 h14 h18 h1C hbin))

/-- A write is the encoding of its operation: the operand fields make up its DATA. -/
theorem encode_decode_write (sz : BitVec 2) (off : Offset) (d : Word) :
    encode (decode (mkT true sz off d)) = mkT true sz off d := by
  rw [decode_write]
  split
  next => rfl
  next hgood =>
    obtain ⟨rfl, -, -⟩ := not_badPlace_iff.mp hgood
    split_ifs with h0 hnop hclear hsolve h4 h8 hfits hC
    · rw [h0, hnop]; rfl
    · rw [h0, hclear]; rfl
    · rw [h0, hsolve]; rfl
    · rw [h0, encode, command_join]; rfl
    · rw [h4]; rfl
    · rw [h8, encode, sample_join hfits]; rfl
    · rw [h8]; rfl
    · rw [hC, encode, lanes_join]; rfl
    · rfl

/-- A read is the encoding of its operation but for its DATA. -/
theorem encode_decode_read (sz : BitVec 2) (off : Offset) (d : Word) :
    encode (decode (mkT false sz off d)) = mkT false sz off 0 := by
  rw [decode_read]
  split
  next => rfl
  next hgood =>
    obtain ⟨rfl, hal, -⟩ := not_badPlace_iff.mp hgood
    split_ifs with h4 h10 h14 h18 h1C hbin
    · rw [h4]; rfl
    · rw [h10]; rfl
    · rw [h14]; rfl
    · rw [h18]; rfl
    · rw [h1C]; rfl
    · exact congrArg readT (eq_binOffset hal hbin).symm
    · rfl

/-! ### The statements of 30_encoding.md -/

/-- Settles O1: the round trip, constructor by constructor. -/
theorem decodeEncodeRoundTrip : Obligations.DecodeEncodeRoundTrip := decode_encode

/-- Settles O2: a write keeps its DATA, a read loses it. -/
theorem encodeDecodeRoundTrip : Obligations.EncodeDecodeRoundTrip := by
  intro t
  conv_lhs => rw [← mkT_fields t]
  cases isWrite t with
  | true => exact encode_decode_write ..
  | false => exact encode_decode_read ..

/-- Settles O3: the operands of writes and of reads, along the two columns of the map. -/
theorem decodedInstructionIsWellFormed : Obligations.DecodedInstructionIsWellFormed := by
  intro t
  rw [← mkT_fields t]
  cases isWrite t with
  | true => exact wellFormed_decode_write ..
  | false => exact wellFormed_decode_read ..

/-- Settles O4: no row that a read can match looks at DATA. -/
theorem readDataIsIgnored : Obligations.ReadDataIsIgnored := decode_read_data

/-- Settles O5: each encoding is computed, and what is an encoding decodes by the round trip. -/
theorem workedEncodingsDecode : Obligations.WorkedEncodingsDecode := by
  have hencode4 : encode (.tally4 10 200 10 200) = 0x300CC80AC80A := by decide
  have hencode1 : encode (.tally1 7) = 0x300800000007 := by decide
  have hencodeBad : encode (.tally1Bad 0x100) = 0x300800000100 := by decide
  have hencodeBin : encode (.rdBin 200) = 0x172000000000 := by decide
  have hbyteRead : encode (.accBad (.read 0 0x010)) = 0x001000000000 := by decide
  have hmisaligned : encode (.accBad (.read 2 0x402)) = 0x140200000000 := by decide
  exact ⟨hencode4 ▸ decode_encode _ rfl, hencode4, hencode1 ▸ decode_encode _ rfl, hencode1,
    hencodeBad ▸ decode_encode _ rfl, hencodeBad, hencodeBin ▸ decode_encode _ rfl, hencodeBin,
    by decide, hbyteRead ▸ decode_encode _ rfl, hmisaligned ▸ decode_encode _ rfl,
    by decide, by decide⟩

/-- Settles O6: a word that is not NOP, CLEAR or SOLVE is reserved, and so comes back from its encoding. -/
theorem commandWordsDecode : Obligations.CommandWordsDecode := by
  intro rsv op
  split_ifs with hrsv h0 h1 h2
  · exact decode_encode_cmdBad (reservedCommand_iff.mpr (.inl hrsv))
  all_goals obtain rfl := not_not.mp hrsv
  · rw [h0]; exact decode_encode .nop rfl
  · rw [h1]; exact decode_encode .clear rfl
  · rw [h2]; exact decode_encode .solve rfl
  · exact decode_encode_cmdBad (reservedCommand_iff.mpr (.inr (by bv_omega)))

/-- Settles O7: the two branches of the SAMPLE1 operand. -/
theorem sampleOneDecodes : Obligations.SampleOneDecodes := by
  intro d
  rw [decode_sample1]
  exact ⟨fun h => ⟨if_pos h, lowByte_toNat h⟩, fun h => if_neg (not_le.mpr h)⟩

/-- Settles O8: the lanes are the SAMPLE4 operand's fields, said by division. -/
theorem sampleFourDecodes : Obligations.SampleFourDecodes := by
  intro d
  rw [decode_sample4]
  simp only [extractLsb'_eq_ofNat_div, pow_zero, Nat.div_one]

/-- Settles O9: such an offset is a bin's, and a word read there is RD.BIN. -/
theorem binOffsetsDecode : Obligations.BinOffsetsDecode := by
  refine ⟨fun v d => ?_, fun off d hbin hal => ?_⟩
  · rw [binOffset_eq_ofNat]
    exact decode_wordRead (i := .rdBin v) rfl rfl d
  · obtain ⟨v, rfl⟩ := exists_binOffset hbin hal
    rw [binOffset_index]
    exact ⟨decode_wordRead (i := .rdBin v) rfl rfl d, binOffset_toNat v⟩

end Sys2Proof
end

/-! ### Transaction words as numbers (30_encoding.md R70, R82) -/

section
namespace Sys2Proof

theorem toNat_append_eq_add {m n : Nat} (x : BitVec m) (y : BitVec n) :
    (x ++ y).toNat = 2 ^ n * x.toNat + y.toNat := by
  rw [BitVec.toNat_append, ← Nat.shiftLeft_add_eq_or_of_lt y.isLt, Nat.shiftLeft_eq, Nat.mul_comm]

/-- A transaction word is the sum of its fields, each at its weight. -/
theorem mkT_toNat (w : Bool) (sz : BitVec 2) (off : Offset) (d : Word) :
    (mkT w sz off d).toNat = 2 ^ 45 * w.toNat + 2 ^ 43 * sz.toNat + 2 ^ 32 * off.toNat + d.toNat := by
  simp only [mkT, toNat_append_eq_add, BitVec.toNat_ofBool]
  omega

theorem writeT_toNat (off : Offset) (d : Word) :
    (writeT off d).toNat = 0x300000000000 + 2 ^ 32 * off.toNat + d.toNat := by
  simp [writeT, mkT_toNat]

theorem readT_toNat (off : Offset) : (readT off).toNat = 0x100000000000 + 2 ^ 32 * off.toNat := by
  simp [readT, mkT_toNat]

theorem encode_tally1_toNat (x : Byte) : (encode (.tally1 x)).toNat = 0x300800000000 + x.toNat := by
  rw [encode, writeT_toNat, BitVec.toNat_setWidth_of_le (by decide)]
  rfl

theorem encode_tally4_toNat (x0 x1 x2 x3 : Byte) : (encode (.tally4 x0 x1 x2 x3)).toNat =
    0x300C00000000 + x0.toNat + 2 ^ 8 * x1.toNat + 2 ^ 16 * x2.toNat + 2 ^ 24 * x3.toNat := by
  have hoff : (0x00C : Offset).toNat = 0x00C := rfl
  simp only [encode, writeT_toNat, toNat_append_eq_add, hoff]
  omega

theorem encode_rdBin_toNat (v : Byte) :
    (encode (.rdBin v)).toNat = 0x140000000000 + 2 ^ 34 * v.toNat := by
  rw [encode, readT_toNat, binOffset_toNat]
  omega

/-- The number of an instruction's encoding is a word of that instruction. -/
theorem decode_ofNat_of_encode {i : Instr} {n : Nat} (hi : i.wellFormed = true)
    (hn : (encode i).toNat = n) : decode (BitVec.ofNat 46 n) = i := by
  rw [← hn, BitVec.ofNat_toNat, BitVec.setWidth_eq, decode_encode i hi]

/-- COUNT and the bins cannot be written (40_histogram.md R111). -/
theorem decode_write_histogram (sz : BitVec 2) {off : Offset} (d : Word)
    (h : off = 0x010 ∨ 0x400 ≤ off.toNat) : decode (mkT true sz off d) = .accBad (.write sz off d) := by
  have hro : readOnly off = true := by
    rcases h with rfl | h
    · rfl
    · simp [readOnly, h]
  exact decode_encode_badWrite (unsupported_write_iff.mpr (.inr hro))

/-- A read of the wrong size or misaligned is ACC.BAD (20_memory.md R54, R55). -/
theorem decode_unaligned_read {sz : BitVec 2} {off : Offset} (d : Word)
    (h : sz ≠ 2 ∨ off.extractLsb' 0 2 ≠ 0) : decode (mkT false sz off d) = .accBad (.read sz off) := by
  have hmod : off.toNat % 4 = (off.extractLsb' 0 2).toNat := by simp
  have hbad : badPlace sz off := h.imp_right fun hoff => .inl fun hal =>
    hoff (BitVec.eq_of_toNat_eq (hmod.symm.trans hal))
  exact decode_badRead (unsupported_read_iff.mpr (.inl hbad)) d

end Sys2Proof
end

section
namespace Sys2Proof.Machine

/-! ### One tally write (40_histogram.md R102, R104) -/

section
variable {w : TallyWrite} {ws : List TallyWrite} {s t : State}

theorem effect_tallyWrite (w : TallyWrite) (s : State) :
    effect w.instr s = tallyWrite w.samples s := by
  cases w <;> rfl

theorem effect_tallyWrite_accepted (hfits : s.N.toNat + w.samples.length ≤ 0xFFFFFFFF) :
    effect w.instr s = invalidate (tallyAll w.samples s) := by
  rw [effect_tallyWrite, tallyWrite_accepted hfits]

theorem raised_tallyWrite_eq_none_iff :
    raised w.instr s = none ↔ s.N.toNat + w.samples.length ≤ 0xFFFFFFFF := by
  cases w <;> simp [TallyWrite.instr, TallyWrite.samples, raised]

/-- An accepted tally write tallies its samples and makes the result stale, and nothing else. -/
theorem exec_tallyWrite_accepted (hfits : s.N.toNat + w.samples.length ≤ 0xFFFFFFFF) :
    ∃ t, exec w.instr s = .next t ∧ (∀ v, bin t v = bin (tallyAll w.samples s) v) ∧
      t.N = s.N + BitVec.ofNat 32 w.samples.length ∧ t.THRESH = s.THRESH ∧ t.VARMAX = s.VARMAX ∧
      t.STATUS = staleResult s.STATUS ∧
      t.response = some 0 ∧ t.txIndex = s.txIndex + 1 ∧ t.pending = s.pending := by
  have heff := effect_tallyWrite_accepted hfits
  refine ⟨_, exec_eq w.instr s, fun v => ?_, ?_, ?_, ?_, ?_, ?_, after_txIndex .., after_pending ..⟩
  · rw [bin_after, heff, bin_invalidate]
  · rw [after_N, heff, invalidate_N, tallyAll_N]
  · rw [after_THRESH, heff, invalidate_THRESH, tallyAll_THRESH]
  · rw [after_VARMAX, heff, invalidate_VARMAX, tallyAll_VARMAX]
  · rw [after_STATUS, heff, invalidate_STATUS, tallyAll_STATUS]
  · cases w <;> rfl

/-- A refused tally write records OVF_ERR and does nothing else. -/
theorem exec_tallyWrite_refused (hover : 0xFFFFFFFF < s.N.toNat + w.samples.length) :
    exec w.instr s = .next { s with
      STATUS := recordError .ovf s.STATUS
      response := some 0
      txIndex := s.txIndex + 1 } := by
  rw [exec_eq, after, effect_tallyWrite, tallyWrite_refused hover]
  cases w <;> rfl

/-! ### Tally writes one after another (40_histogram.md R108) -/

theorem allSamples_cons : allSamples (w :: ws) = w.samples ++ allSamples ws := rfl

/-- The first of a sequence of successful tally writes. -/
theorem allTallied_cons_iff : AllTallied (w :: ws) s t ↔
    s.N.toNat + w.samples.length ≤ 0xFFFFFFFF ∧ AllTallied ws (after w.instr s) t := by
  simp only [AllTallied, raised_tallyWrite_eq_none_iff, exec_eq, Host.Outcome.next.injEq,
    exists_eq_left']

theorem AllTallied.bin_eq (h : AllTallied ws s t) (v : Byte) :
    bin t v = bin s v + BitVec.ofNat 32 ((allSamples ws).count v) := by
  induction ws generalizing s with
  | nil => cases h; simp [allSamples]
  | cons w ws ih =>
    obtain ⟨hw, hws⟩ := allTallied_cons_iff.mp h
    rw [ih hws, bin_after, effect_tallyWrite_accepted hw, bin_invalidate, bin_tallyAll,
      allSamples_cons, List.count_append, BitVec.ofNat_add, BitVec.add_assoc]

theorem AllTallied.N_eq (h : AllTallied ws s t) :
    t.N = s.N + BitVec.ofNat 32 (allSamples ws).length := by
  induction ws generalizing s with
  | nil => cases h; simp [allSamples]
  | cons w ws ih =>
    obtain ⟨hw, hws⟩ := allTallied_cons_iff.mp h
    rw [ih hws, after_N, effect_tallyWrite_accepted hw, invalidate_N, tallyAll_N, allSamples_cons,
      List.length_append, BitVec.ofNat_add, BitVec.add_assoc]

/-- Where no result is current, successful tally writes leave STATUS alone: they record no error. -/
theorem AllTallied.STATUS_eq (h : AllTallied ws s t) (hs : staleResult s.STATUS = s.STATUS) :
    t.STATUS = s.STATUS := by
  induction ws generalizing s with
  | nil => cases h; rfl
  | cons w ws ih =>
    obtain ⟨hw, hws⟩ := allTallied_cons_iff.mp h
    have hst : (after w.instr s).STATUS = s.STATUS := by
      rw [after_STATUS, effect_tallyWrite_accepted hw, invalidate_STATUS, tallyAll_STATUS, hs]
    rw [ih hws (by rw [hst, hs]), hst]

theorem AllTallied.execAll_eq (h : AllTallied ws s t) :
    execAll (ws.map TallyWrite.instr) s = .next t := by
  induction ws generalizing s with
  | nil => exact congrArg _ h
  | cons w ws ih =>
    obtain ⟨-, hws⟩ := allTallied_cons_iff.mp h
    rw [List.map_cons, execAll_cons, ih hws]

/-- Tally writes that keep N within COUNT_MAX all succeed (40_histogram.md R107). -/
theorem exists_allTallied (hfits : s.N.toNat + (allSamples ws).length ≤ 0xFFFFFFFF) :
    ∃ t, AllTallied ws s t := by
  induction ws generalizing s with
  | nil => exact ⟨s, rfl⟩
  | cons w ws ih =>
    rw [allSamples_cons, List.length_append, ← Nat.add_assoc] at hfits
    have hw : s.N.toNat + w.samples.length ≤ 0xFFFFFFFF := by omega
    obtain ⟨t, ht⟩ := ih (s := after w.instr s) <| by
      rwa [after_N, effect_tallyWrite_accepted hw, invalidate_N, tallyAll_N_toNat hw]
    exact ⟨t, allTallied_cons_iff.mpr ⟨hw, ht⟩⟩

/-! ### Bins as numbers (40_histogram.md R111) -/

/-- In a conserved histogram no bin wraps while N stays within COUNT_MAX. -/
theorem bin_tallyAll_toNat {xs : List Byte} (h : Conserved s)
    (hfits : s.N.toNat + xs.length ≤ 0xFFFFFFFF) (v : Byte) :
    (bin (tallyAll xs s) v).toNat = (bin s v).toNat + xs.count v := by
  have hbin : (bin s v).toNat ≤ s.N.toNat := (bin_le_binSum s v).trans h.ge
  have hcount : xs.count v ≤ xs.length := List.count_le_length
  rw [bin_tallyAll, BitVec.toNat_add, BitVec.toNat_ofNat]
  omega

/-- An instruction other than CLEAR leaves the histogram or tallies exactly what it presents. -/
theorem EffectOf.tallied_or_kept {i : Instr} {u : State} (h : EffectOf i s u) (hi : i ≠ .clear) :
    (u.H = s.H ∧ u.N = s.N) ∨
    (s.N.toNat + (offered i).length ≤ 0xFFFFFFFF ∧ u = invalidate (tallyAll (offered i) s)) := by
  cases h with
  | quiet | error | empty | acknowledged => exact .inl ⟨rfl, rfl⟩
  | solve => exact .inl ⟨commitSolve_H .., commitSolve_N ..⟩
  | clear hclear => exact absurd hclear hi
  | tally _ _ hfits => exact .inr ⟨hfits, rfl⟩

end

/-! ### The statements of 40_histogram.md -/

/-- Settles O20: CLEAR's whole effect is `clearAll`. -/
theorem clearStartsFreshHistogram : Obligations.ClearStartsFreshHistogram :=
  ⟨decode_encode .clear rfl, fun s => ⟨after .clear s, exec_eq .clear s, bin_clearAll s, rfl, rfl, rfl,
    rfl, rfl, after_txIndex .clear s, after_pending .clear s⟩⟩

/-- Settles O21: a tally write of one sample, accepted unless N is COUNT_MAX. -/
theorem tallyOneSample : Obligations.TallyOneSample := by
  refine fun x s => ⟨decode_ofNat_of_encode rfl (encode_tally1_toNat x), fun hN => ?_, fun hN => ?_⟩
  · have hfits : s.N.toNat + 1 ≤ 0xFFFFFFFF := by bv_omega
    obtain ⟨t, ht, hbin, hrest⟩ := exec_tallyWrite_accepted (w := .one x) hfits
    have htally : ∀ v, bin t v = bin s v + if v = x then 1 else 0 := fun v =>
      (hbin v).trans (bin_tally x v s)
    refine ⟨t, ht, ?_, fun v hv => ?_, hrest⟩
    · rw [htally, if_pos rfl]
    · rw [htally, if_neg hv]
      exact BitVec.add_zero _
  · have hover : 0xFFFFFFFF < s.N.toNat + 1 := by rw [hN]; decide
    exact exec_tallyWrite_refused (w := .one x) hover

/-- Settles O22: a tally write of four samples, each lane adding one to its bin. -/
theorem tallyFourSamples : Obligations.TallyFourSamples := by
  refine fun x0 x1 x2 x3 s => ⟨decode_ofNat_of_encode rfl (encode_tally4_toNat x0 x1 x2 x3),
    fun hN => ?_, fun hN => ?_⟩
  · have hfits : s.N.toNat + 4 ≤ 0xFFFFFFFF := by omega
    obtain ⟨t, ht, hbin, hrest⟩ := exec_tallyWrite_accepted (w := .four x0 x1 x2 x3) hfits
    refine ⟨t, ht, fun v => ?_, hrest⟩
    rw [hbin]
    simp only [TallyWrite.samples, tallyAll, bin_tally]
  · have hover : 0xFFFFFFFF < s.N.toNat + 4 := by omega
    exact exec_tallyWrite_refused (w := .four x0 x1 x2 x3) hover

/-- Settles O23: the SAMPLE1 operand above 255, and an effect that looks at no count. -/
theorem outOfRangeSampleIsRefused : Obligations.OutOfRangeSampleIsRefused := fun d s =>
  ⟨fun hd => (decode_sample1 d).trans (if_neg (Nat.not_le.mpr hd)), exec_eq (.tally1Bad d) s⟩

/-- Settles O24: reads have no effect, and an access of the wrong size or misaligned is ACC.BAD. -/
theorem countAndBinReads : Obligations.CountAndBinReads :=
  ⟨decode_encode .rdCount rfl, fun v => decode_ofNat_of_encode rfl (encode_rdBin_toNat v),
    fun _ _ d _ hbad => decode_unaligned_read d hbad,
    fun s => ⟨exec_eq .rdCount s, fun v => exec_eq (.rdBin v) s⟩⟩

/-- Settles O25: the counts and the number of the samples decide H and N, and permutation keeps both. -/
theorem tallyOrderIndependence : Obligations.TallyOrderIndependence := by
  refine ⟨fun s t u ws vs hperm ht hu => ⟨H_ext fun v => ?_, ?_⟩, fun _ _ => exists_allTallied⟩
  · rw [ht.bin_eq, hu.bin_eq, hperm.count_eq]
  · rw [ht.N_eq, hu.N_eq, hperm.length_eq]

/-- Settles O26: from the empty histogram of CLEAR, all tally writes succeed and no number wraps. -/
theorem histogramCountsSamples : Obligations.HistogramCountsSamples := by
  intro s ws hlen
  have hfits : (after .clear s).N.toNat + (allSamples ws).length ≤ 0xFFFFFFFF := by
    simpa [effect] using hlen
  obtain ⟨t, ht⟩ := exists_allTallied hfits
  refine ⟨t, ?_, fun v => ?_, ?_, ?_⟩
  · rw [execAll_cons, ht.execAll_eq]
  · have hcount : (allSamples ws).count v ≤ (allSamples ws).length := List.count_le_length
    have hzero : bin (after .clear s) v = 0#32 := bin_clearAll s v
    rw [ht.bin_eq, hzero, BitVec.zero_add, BitVec.toNat_ofNat]
    omega
  · have hzero : (after .clear s).N = 0#32 := rfl
    rw [ht.N_eq, hzero, BitVec.zero_add, BitVec.toNat_ofNat]
    omega
  · exact ht.STATUS_eq rfl

/-- Settles O27: the histogram of `m` samples `c`. -/
theorem uniformImageHistogram : Obligations.UniformImageHistogram := by
  intro s c m ws _ hm hws
  obtain ⟨t, ht, hbin, hN, -⟩ := histogramCountsSamples s ws (by simpa [hws] using hm)
  simp only [hws, List.count_replicate, List.length_replicate] at hbin hN
  refine ⟨t, ht, by simp [hbin], fun v hv => BitVec.eq_of_toNat_eq ?_, hN⟩
  simp [hbin, hv.symm]

/-- Settles O28: an effect keeps the histogram or is an accepted tally write, which wraps nothing. -/
theorem binsChangeOnlyByTallies : Obligations.BinsChangeOnlyByTallies := by
  refine ⟨fun i s hs hi => ?_, fun s => ⟨_, exec_eq .clear s, bin_clearAll s, rfl⟩,
    fun s => ⟨bin_resetEvent s, rfl⟩, fun sz off d => decode_write_histogram sz d⟩
  rcases (effectOf_effect i s).tallied_or_kept hi with ⟨hH, hN⟩ | ⟨hfits, heff⟩
  · refine ⟨_, [], exec_eq i s, .inl rfl, fun v => ?_, ?_⟩
    · rw [bin_after, bin_congr hH, List.count_nil, Nat.add_zero]
    · rw [after_N, hN, List.length_nil, Nat.add_zero]
  · refine ⟨_, offered i, exec_eq i s, .inr rfl, fun v => ?_, ?_⟩
    · rw [bin_after, heff, bin_invalidate, bin_tallyAll_toNat hs hfits]
    · rw [after_N, heff, invalidate_N, tallyAll_N_toNat hfits]

end Sys2Proof.Machine
end

section
namespace Sys2Proof.Machine

/-! ### The result reads and the EMPTY solve (41_otsu.md R131, R137 to R139) -/

/-- Bit 31 of RD.VARHI's response is the sign of VARMAX (41_otsu.md R139). -/
theorem varmaxHi_sign (s : State) : (varmaxHi s).getLsbD 31 = s.VARMAX.getLsbD 63 := by
  simp [varmaxHi]

theorem threshWord_low (s : State) : (threshWord s).extractLsb' 0 8 = s.THRESH := by
  rw [threshWord, BitVec.setWidth_eq_append (by decide)]
  exact BitVec.extractLsb'_append_eq_right

/-- Settles O29: an EMPTY solve drops the result and records its error. -/
theorem solveOfEmptyHistogram : Obligations.SolveOfEmptyHistogram := by
  intro s hN
  rw [exec_eq, after, effect_emptySolve hN]
  rfl

/-- Settles O36: the response is THRESH between zero bits. -/
theorem thresholdRead : Obligations.ThresholdRead :=
  ⟨decode_encode .rdThresh rfl, fun s =>
    ⟨threshWord s, exec_eq .rdThresh s, threshWord_low s, threshWord_reserved s⟩⟩

/-- Settles O37: the responses are the halves of VARMAX, whose sign the invariant fixes. -/
theorem varianceReads : Obligations.VarianceReads :=
  ⟨decode_encode .rdVarlo rfl, decode_encode .rdVarhi rfl, fun s =>
    ⟨varmaxLo s, varmaxHi s, exec_eq .rdVarlo s, exec_eq .rdVarhi s, varmax_halves s,
      fun hinv => (varmaxHi_sign s).trans hinv.varmaxSign⟩⟩

/-! ### The sweep, index by index (41_otsu.md R120) -/

/-- The bin file in the order of its indices. -/
theorem toList_eq_map_bin (s : State) :
    s.H.toList = (List.range' 0 256).map fun i => bin s (BitVec.ofNat 8 i) := by
  refine List.ext_getElem (by simp) fun i hi _ => ?_
  have hlt : i < 256 := by simpa using hi
  simp [bin, Nat.mod_eq_of_lt hlt]

theorem probabilities_eq_map_refP (s : State) :
    probabilities s.H s.N = (List.range' 0 256).map (refP s) := by
  rw [probabilities_eq, toList_eq_map_bin, List.map_map]
  exact List.map_congr_left fun i _ => by rw [Function.comp_apply, refP]

/-- The mean's loop continues the partial sum that it starts from. -/
theorem meanFrom_eq_refMean (s : State) (i n : Nat) :
    meanFrom i (refMean s i) ((List.range' i n).map (refP s)) = refMean s (i + n) := by
  induction n generalizing i with
  | zero => rfl
  | succ n ih =>
    rw [List.range'_succ, List.map_cons, meanFrom_cons, ← Nat.add_assoc, Nat.add_right_comm]
    exact ih (i + 1)

theorem globalMean_eq_refMean (s : State) :
    globalMean (probabilities s.H s.N) = refMean s 256 := by
  rw [globalMean, probabilities_eq_map_refP]
  exact meanFrom_eq_refMean s 0 256

/-- The running values of the sweep after the first `n` indices, as 41_otsu.md R120 gives them. -/
def refSweep (s : State) (n : Nat) : Sweep where
  w := refW s n
  mu := refMu s n
  best := (refArgmax s n).1
  t := (refArgmax s n).2
  found := refFound s n

theorem variance_eq_refVar (s : State) (i : Nat) :
    variance (refMean s 256) (refW s (i + 1)) (refMu s (i + 1)) = refVar s i := rfl

theorem isCandidate_eq_refCandidate (s : State) (i : Nat) :
    isCandidate (refW s (i + 1)) = refCandidate s i := rfl

/-- One index of the sweep does what the pseudocode does at that index. -/
theorem sweepAt_refSweep (s : State) (i : Nat) :
    sweepAt (refMean s 256) i (refP s i) (refSweep s i) = refSweep s (i + 1) := by
  have hw : f64Add (refSweep s i).w (refP s i) = refW s (i + 1) := rfl
  have hmu : f64Add (refSweep s i).mu (f64Mul (f64OfNat i) (refP s i)) = refMu s (i + 1) := rfl
  simp only [sweepAt, forced_eq, hw, hmu, variance_eq_refVar, isCandidate_eq_refCandidate]
  simp only [refSweep, refArgmax, refFound]
  by_cases hc : refCandidate s i = true
  · by_cases hlt : f64Lt (refArgmax s i).1 (refVar s i) = true
    · simp [hc, hlt]
    · simp [hc, hlt]
  · simp [hc]

theorem sweepFrom_refSweep (s : State) (i n : Nat) :
    sweepFrom (refMean s 256) i ((List.range' i n).map (refP s)) (refSweep s i) =
      refSweep s (i + n) := by
  induction n generalizing i with
  | zero => rfl
  | succ n ih =>
    rw [List.range'_succ, List.map_cons, sweepFrom_cons, sweepAt_refSweep, ← Nat.add_assoc,
      Nat.add_right_comm]
    exact ih (i + 1)

/-- The machine's solve is the pseudocode's. -/
theorem otsu_eq_refSweep (s : State) : otsu s.H s.N = refSweep s 256 := by
  rw [otsu_eq, globalMean_eq_refMean, probabilities_eq_map_refP]
  exact sweepFrom_refSweep s 0 256

theorem otsu_found (s : State) : (otsu s.H s.N).found = refFound s 256 := by
  rw [otsu_eq_refSweep, refSweep]

theorem otsu_best (s : State) : (otsu s.H s.N).best = (refArgmax s 256).1 := by
  rw [otsu_eq_refSweep, refSweep]

theorem otsu_t (s : State) : (otsu s.H s.N).t = (refArgmax s 256).2 := by
  rw [otsu_eq_refSweep, refSweep]

/-- What SOLVE commits when N is not 0 (41_otsu.md R129, R130). -/
theorem after_solve {s : State} (hN : s.N ≠ 0) :
    (after .solve s).THRESH = (if refFound s 256 then (refArgmax s 256).2 else 0#8) ∧
    (after .solve s).VARMAX = (if refFound s 256 then (refArgmax s 256).1 else 0#64) ∧
    (after .solve s).STATUS = currentResult (!refFound s 256) s.STATUS := by
  simp only [after_THRESH, after_VARMAX, after_STATUS, effect_solve hN, commitSolve_THRESH,
    commitSolve_VARMAX, commitSolve_STATUS, otsu_found, otsu_best, otsu_t, and_self]

/-- The state after an instruction, field by field. -/
theorem after_eq (i : Instr) (s : State) : after i s = { s with
    H := (effect i s).H
    N := (effect i s).N
    THRESH := (effect i s).THRESH
    VARMAX := (effect i s).VARMAX
    STATUS := (effect i s).STATUS
    response := some (rdata i s)
    txIndex := s.txIndex + 1 } := by
  obtain ⟨htx, hpending⟩ := effect_port i s
  rw [after, htx]
  congr 1

/-- Settles O30: the sweep's values are those of the index by index definition. -/
theorem solveComputesThreshold : Obligations.SolveComputesThreshold := by
  refine ⟨decode_encode .solve rfl, fun s => ⟨fun hN => ?_, fun hN => ?_⟩⟩
  · obtain ⟨hT, hV, hS⟩ := after_solve hN
    obtain ⟨hH, hN'⟩ := solve_keeps_histogram s
    simp only [after_THRESH, after_VARMAX, after_STATUS, after_H, after_N] at hT hV hS hH hN'
    rw [exec_eq, after_eq, hT, hV, hS, hH, hN']
    rfl
  · exact ⟨_, solveOfEmptyHistogram s hN, rfl, rfl, rfl, rfl, rfl, rfl, rfl, rfl⟩

/-! ### Repeating a solve (41_otsu.md R136) -/

/-- With N not 0, what SOLVE commits depends on H and N alone. -/
theorem solve_congr {a b : State} (hH : a.H = b.H) (hN : a.N = b.N) (h0 : a.N ≠ 0) :
    (after .solve a).THRESH = (after .solve b).THRESH ∧
    (after .solve a).VARMAX = (after .solve b).VARMAX ∧
    (after .solve a).STATUS.DEGEN = (after .solve b).STATUS.DEGEN := by
  simp only [after_THRESH, after_VARMAX, after_STATUS, effect_solve h0, effect_solve (hN ▸ h0), hH,
    hN, commitSolve_THRESH, commitSolve_VARMAX, commitSolve_STATUS, currentResult_DEGEN, and_self]

/-- An EMPTY solve keeps the result registers. -/
theorem solve_empty {s : State} (hN : s.N = 0) :
    (after .solve s).THRESH = s.THRESH ∧ (after .solve s).VARMAX = s.VARMAX ∧
    (after .solve s).STATUS.DEGEN = false := by
  simp [effect_emptySolve hN]

/-- Operations that neither tally nor clear keep the histogram, and with N = 0 the result registers. -/
theorem after_keeps {i : Instr} (hclear : i ≠ .clear) (hoff : offered i = []) (s : State) :
    (after i s).H = s.H ∧ (after i s).N = s.N ∧
    (s.N = 0 → (after i s).THRESH = s.THRESH ∧ (after i s).VARMAX = s.VARMAX) := by
  have heff := effectOf_effect i s
  obtain ⟨hH, hN⟩ : (after i s).H = s.H ∧ (after i s).N = s.N := by
    rcases heff.histogram with h | h | ⟨h, -⟩
    · exact h
    · exact absurd h hclear
    · exact absurd hoff h
  refine ⟨hH, hN, fun h0 => ?_⟩
  rcases heff.result with h | h | rfl
  · exact h
  · exact absurd h hclear
  · exact ⟨(solve_empty h0).1, (solve_empty h0).2.1⟩

theorem execAll_keeps {is : List Instr} {s t : State}
    (his : ∀ i ∈ is, i ≠ .clear ∧ offered i = []) (h : execAll is s = .next t) :
    t.H = s.H ∧ t.N = s.N ∧ (s.N = 0 → t.THRESH = s.THRESH ∧ t.VARMAX = s.VARMAX) := by
  induction is generalizing s with
  | nil =>
    obtain rfl := Host.Outcome.next.inj h
    exact ⟨rfl, rfl, fun _ => ⟨rfl, rfl⟩⟩
  | cons i is ih =>
    obtain ⟨⟨hclear, hoff⟩, hrest⟩ := List.forall_mem_cons.mp his
    rw [execAll_cons] at h
    obtain ⟨hH, hN, hres⟩ := after_keeps hclear hoff s
    obtain ⟨hH', hN', hres'⟩ := ih hrest h
    refine ⟨hH'.trans hH, hN'.trans hN, fun h0 => ?_⟩
    obtain ⟨hT, hV⟩ := hres h0
    obtain ⟨hT', hV'⟩ := hres' (hN.trans h0)
    exact ⟨hT'.trans hT, hV'.trans hV⟩

/-- A second solve of the same histogram gives the same result, with N = 0 too. -/
theorem solve_again {s u : State} (hH : u.H = s.H) (hN : u.N = s.N)
    (h0 : s.N = 0 → u.THRESH = (after .solve s).THRESH ∧ u.VARMAX = (after .solve s).VARMAX) :
    (after .solve u).THRESH = (after .solve s).THRESH ∧
    (after .solve u).VARMAX = (after .solve s).VARMAX ∧
    (after .solve u).STATUS.DEGEN = (after .solve s).STATUS.DEGEN := by
  by_cases hs : s.N = 0
  · obtain ⟨hT, hV⟩ := h0 hs
    obtain ⟨hTu, hVu, hDu⟩ := solve_empty (hN.trans hs)
    exact ⟨hTu.trans hT, hVu.trans hV, hDu.trans (solve_empty hs).2.2.symm⟩
  · exact solve_congr hH hN (hN.symm ▸ hs)

/-- SOLVE changes no sticky bit but EMPTY_ERR, and with N not 0 neither that nor CAUSE. -/
theorem solve_keeps_errors (s : State) :
    (∀ e, e ≠ .empty → stickyBit e (after .solve s).STATUS = stickyBit e s.STATUS) ∧
    (s.N ≠ 0 → (after .solve s).STATUS.EMPTY_ERR = s.STATUS.EMPTY_ERR ∧
      (after .solve s).STATUS.CAUSE = s.STATUS.CAUSE) := by
  refine ⟨fun e he => ?_, fun hN => by simp [effect_solve hN]⟩
  by_cases hN : s.N = 0
  · simp [effect_emptySolve hN, Ne.symm he]
  · simp [effect_solve hN]

/-- Settles O31: the frame of SOLVE, its dependence on H and N, and what keeps H and N between two. -/
theorem solveIsRepeatable : Obligations.SolveIsRepeatable := by
  refine ⟨fun s => ?_, fun s s' t t' hH hN h0 ht ht' => ?_, fun s t u v is ht his hu hv => ?_⟩
  · obtain ⟨hH, hN⟩ := solve_keeps_histogram s
    obtain ⟨hsticky, hempty⟩ := solve_keeps_errors s
    exact ⟨_, exec_eq .solve s, hH, hN, hsticky .ovf nofun, hsticky .range nofun,
      hsticky .cmd nofun, hsticky .acc nofun, hempty, after_pending .solve s⟩
  · obtain rfl := exec_next ht
    obtain rfl := exec_next ht'
    exact solve_congr hH hN h0
  · obtain rfl := exec_next ht
    obtain rfl := exec_next hv
    obtain ⟨hH, hN⟩ := solve_keeps_histogram s
    obtain ⟨hH', hN', hres⟩ := execAll_keeps his hu
    exact solve_again (hH'.trans hH) (hN'.trans hN) fun h0 => hres (hN.trans h0)

end Sys2Proof.Machine
end

section
namespace Sys2Proof.Machine

/-! ### The order of binary64 numbers, infinities included -/

/-- The place of a datum in the order: a NaN has none. -/
def F64Class.place : F64Class → Option (WithBot (WithTop Int))
  | .nan => none
  | .inf true => some ⊥
  | .inf false => some ⊤
  | .fin neg u => some ((signedUnits neg u : WithTop Int) : WithBot (WithTop Int))

/-- The comparison is that of the places in the order. -/
theorem f64Lt_iff_place {a b : F64} : f64Lt a b = true ↔
    ∃ p q, (unpack a).place = some p ∧ (unpack b).place = some q ∧ p < q := by
  cases ha : unpack a with
  | nan => simp [(nan_operand (.inl ha)).2.2.2, F64Class.place]
  | inf na => cases hb : unpack b with
    | nan => simp [(nan_operand (.inr hb)).2.2.2, F64Class.place]
    | inf nb => cases na <;> cases nb <;> simp [f64Lt, ha, hb, F64Class.place]
    | fin nb y => cases na <;> simp [f64Lt, ha, hb, F64Class.place]
  | fin na x => cases hb : unpack b with
    | nan => simp [(nan_operand (.inr hb)).2.2.2, F64Class.place]
    | inf nb =>
      have hlt : ((signedUnits na x : WithTop Int) : WithBot (WithTop Int)) < ⊤ :=
        WithBot.coe_lt_coe.mpr (WithTop.coe_lt_top _)
      cases nb <;> simp [f64Lt, ha, hb, F64Class.place, hlt]
    | fin nb y => simp [f64Lt, ha, hb, F64Class.place]

theorem f64Lt_irrefl (a : F64) : f64Lt a a = false := by
  rw [← Bool.not_eq_true, f64Lt_iff_place]
  rintro ⟨p, q, hp, hq, hpq⟩
  exact hpq.ne (Option.some.inj (hp.symm.trans hq))

theorem f64Lt_trans {a b c : F64} (hab : f64Lt a b = true) (hbc : f64Lt b c = true) :
    f64Lt a c = true := by
  obtain ⟨p, q, hp, hq, hpq⟩ := f64Lt_iff_place.mp hab
  obtain ⟨q', r, hq', hr, hqr⟩ := f64Lt_iff_place.mp hbc
  obtain rfl : q = q' := Option.some.inj (hq.symm.trans hq')
  exact f64Lt_iff_place.mpr ⟨p, r, hp, hr, hpq.trans hqr⟩

/-! ### The argmax (41_otsu.md R127, R128) -/

/-- One index of the argmax: a candidate of greater variance is taken, and any other index is passed
over. -/
theorem refArgmax_succ (s : State) (i : Nat) :
    (refCandidate s i = true ∧ f64Lt (refArgmax s i).1 (refVar s i) = true ∧
      (refArgmax s (i + 1)).1 = refVar s i ∧ (refArgmax s (i + 1)).2 = BitVec.ofNat 8 i) ∨
    ((refCandidate s i = true → f64Lt (refArgmax s i).1 (refVar s i) = false) ∧
      refArgmax s (i + 1) = refArgmax s i) := by
  by_cases h : refCandidate s i = true ∧ f64Lt (refArgmax s i).1 (refVar s i) = true
  · exact .inl ⟨h.1, h.2, by rw [refArgmax, if_pos h], by rw [refArgmax, if_pos h]⟩
  · exact .inr ⟨fun hc => Bool.eq_false_of_not_eq_true fun hlt => h ⟨hc, hlt⟩,
      by rw [refArgmax, if_neg h]⟩

/-- No candidate so far has a greater variance than the best. -/
theorem refArgmax_maximal (s : State) {n j : Nat} (hj : j < n) (hc : refCandidate s j = true) :
    f64Lt (refArgmax s n).1 (refVar s j) = false := by
  induction n with
  | zero => omega
  | succ n ih =>
    rcases refArgmax_succ s n with ⟨-, hlt, e, -⟩ | ⟨hpass, e⟩ <;> rw [e] <;>
      rcases Nat.lt_succ_iff_lt_or_eq.mp hj with hjn | rfl
    · by_contra hgt
      have habove := f64Lt_trans hlt (by simpa using hgt)
      simp [ih hjn] at habove
    · exact f64Lt_irrefl _
    · exact ih hjn
    · exact hpass hc

/-- `t` is the first candidate of variance `best`, and `best` is positive. -/
structure FirstMaximum (s : State) (best : F64) (t : Byte) : Prop where
  candidate : refCandidate s t.toNat = true
  attained : refVar s t.toNat = best
  positive : f64Lt f64Zero best = true
  first : ∀ j, j < t.toNat → refCandidate s j = true → refVar s j ≠ best

theorem toNat_ofNat_of_lt {j : Nat} (hj : j < 256) : (BitVec.ofNat 8 j).toNat = j := by
  rw [BitVec.toNat_ofNat, Nat.mod_eq_of_lt hj]

/-- A candidate above the best is the first of its variance: no lower candidate is above that best. -/
theorem firstMaximum_of_lt {s : State} {i : Nat} (hi : i < 256) (hc : refCandidate s i = true)
    (hlt : f64Lt (refArgmax s i).1 (refVar s i) = true)
    (hpos : f64Lt f64Zero (refVar s i) = true) :
    FirstMaximum s (refVar s i) (BitVec.ofNat 8 i) := by
  have hidx := toNat_ofNat_of_lt hi
  refine ⟨?_, ?_, hpos, fun j hj hcj heq => ?_⟩
  · rw [hidx]
    exact hc
  · rw [hidx]
  · rw [← heq, refArgmax_maximal s (hidx ▸ hj) hcj] at hlt
    cases hlt

/-- The argmax has its initial value, or it is a first maximum. -/
theorem refArgmax_cases (s : State) {n : Nat} (hn : n ≤ 256) :
    (refArgmax s n).1 = f64Zero ∨ FirstMaximum s (refArgmax s n).1 (refArgmax s n).2 := by
  induction n with
  | zero => exact .inl rfl
  | succ n ih =>
    rcases refArgmax_succ s n with ⟨hc, hlt, ebest, et⟩ | ⟨-, e⟩
    · rw [ebest, et]
      refine .inr (firstMaximum_of_lt hn hc hlt ?_)
      rcases ih (by omega) with h0 | hmax
      · exact h0 ▸ hlt
      · exact f64Lt_trans hmax.positive hlt
    · rw [e]
      exact ih (by omega)

/-- `found` says whether there was a candidate so far. -/
theorem refFound_iff (s : State) (n : Nat) :
    refFound s n = true ↔ ∃ j, j < n ∧ refCandidate s j = true := by
  induction n with
  | zero => simp [refFound]
  | succ n ih => rw [refFound, Bool.or_eq_true, ih, Nat.exists_lt_succ_right]

/-- Settles O33: with a candidate VARMAX is the argmax's value, and without one there is nothing to
exceed 0. -/
theorem thresholdMaximisesVariance : Obligations.ThresholdMaximisesVariance := by
  intro s hN
  obtain ⟨hT, hV, -⟩ := after_solve hN
  refine ⟨_, exec_eq .solve s, fun j hj hc => ?_, fun hne => ?_⟩
  · have hfound := (refFound_iff s 256).mpr ⟨j, hj, hc⟩
    rw [hV, if_pos hfound]
    exact refArgmax_maximal s hj hc
  · have hfound : refFound s 256 = true := by
      by_contra h
      rw [hV, if_neg h] at hne
      exact hne rfl
    rw [hV, if_pos hfound] at hne
    rw [hT, hV, if_pos hfound, if_pos hfound]
    rcases refArgmax_cases s le_rfl with h0 | hmax
    · exact absurd h0 hne
    · exact ⟨hmax.candidate, hmax.attained, hmax.first⟩

end Sys2Proof.Machine
end

section
namespace Sys2Proof.Machine

/-! ### binary64 numbers as rational numbers (00_scope.md R11) -/

/-- `x` is finite and its value is `q`. -/
def HasValue (x : F64) (q : ℚ) : Prop := ∃ v : Int, finiteValue x = some v ∧ q * 2 ^ 1074 = v

theorem two_pow_pos_rat (k : Nat) : (0 : ℚ) < 2 ^ k := by positivity

section
variable {a b x : F64} {p q : ℚ}

theorem HasValue.isFinite (h : HasValue x q) : isFinite x := by
  obtain ⟨v, hv, -⟩ := h
  exact ⟨v, hv⟩

theorem HasValue.lt_iff (ha : HasValue a p) (hb : HasValue b q) : f64Lt a b = true ↔ p < q := by
  obtain ⟨v, hv, hpv⟩ := ha
  obtain ⟨w, hw, hqw⟩ := hb
  rw [comparisonIsOrdered.1 a b v w hv hw, ← mul_lt_mul_iff_left₀ (two_pow_pos_rat 1074), hpv, hqw,
    Int.cast_lt]

theorem HasValue.neg (h : HasValue x q) : HasValue (f64Neg x) (-q) := by
  obtain ⟨v, hv, hqv⟩ := h
  exact ⟨-v, finiteValue_f64Neg hv, by rw [neg_mul, hqv, Int.cast_neg]⟩

theorem hasValue_zero : HasValue f64Zero 0 :=
  ⟨0, integerConversionIsExact.2.1, by rw [zero_mul, Int.cast_zero]⟩

theorem hasValue_one : HasValue f64One 1 :=
  ⟨2 ^ 1074, integerConversionIsExact.2.2, by rw [one_mul, Int.cast_pow, Int.cast_ofNat]⟩

theorem hasValue_ofNat {k : Nat} (hk : k < 2 ^ 53) : HasValue (f64OfNat k) k :=
  ⟨2 ^ 1074 * k, integerConversionIsExact.1 k hk, by
    rw [Int.cast_mul, Int.cast_pow, Int.cast_ofNat, Int.cast_natCast, mul_comm]⟩

/-- Every integer of 53 bits at a scale `2^-k` from 1 down is a binary64 number. -/
theorem exists_hasValue_scaled {m k : Nat} (hm : m < 2 ^ 53) (hk : k ≤ 1074) :
    ∃ y, HasValue y (m / 2 ^ k) := by
  refine ⟨_, _, finiteValue_roundUnits_exact hm (k := 1074 - k) (by omega) false, ?_⟩
  have hsplit : (2 : ℚ) ^ 1074 = 2 ^ (1074 - k) * 2 ^ k := by rw [← pow_add, Nat.sub_add_cancel hk]
  rw [hsplit, signedUnits, if_neg (by decide), Nat.cast_mul, Nat.cast_pow]
  push_cast
  field_simp

end

end Sys2Proof.Machine
end

section
namespace Sys2Proof.Machine

/-! ### One rounding: it is monotone, and its relative error is at most 2^-53 -/

theorem largest_mul_le {k e : Nat} (h : 54 + k ≤ e) : (2 ^ 54 - 1) * 2 ^ k ≤ 2 ^ e := by
  refine le_trans ?_ (Nat.pow_le_pow_right Nat.two_pos h)
  rw [Nat.pow_add]
  exact Nat.mul_le_mul_right _ (Nat.sub_le _ _)

theorem overflowUnits_le : overflowUnits ≤ 2 ^ 2 ^ 12 := by
  rw [overflowUnits]
  exact largest_mul_le (by omega)

/-- 2^200 is far below the overflow magnitude. -/
theorem lt_overflowUnits : 2 ^ (200 + 1074) < overflowUnits := by
  rw [overflowUnits, ← Nat.mul_one (2 ^ (200 + 1074))]
  exact two_pow_mul_lt_largest (by omega) (by omega)

/-- In the normal range a rounding is off by at most half of the last place, 2^-53 of the magnitude. -/
theorem roundedUnits_error {n d : Nat} (hr : Ratio n d) (hnormal : 2 ^ 52 * d ≤ n) :
    2 ^ 53 * ((n : Int) - d * roundedUnits n d).natAbs ≤ n := by
  have hD := lastPlace_pos hr.pos (roundShift n d)
  obtain ⟨hlo, hup, -⟩ := divTiesToEven_spec n _ hD
  have hplace : 2 ^ 52 * (d * 2 ^ roundShift n d) ≤ n := by
    by_cases hsh : roundShift n d = 0
    · simpa [hsh] using hnormal
    · exact mul_roundShift_le hr hsh
  have hvalue : d * roundedUnits n d =
      divTiesToEven n (d * 2 ^ roundShift n d) * (d * 2 ^ roundShift n d) := by
    rw [roundedUnits, significand]
    ring
  rw [← Nat.cast_mul, hvalue]
  rw [Nat.add_mul, Nat.mul_assoc, Nat.one_mul] at hlo
  rw [Nat.mul_assoc] at hup
  generalize d * 2 ^ roundShift n d = D at *
  generalize divTiesToEven n D * D = m at *
  omega

theorem signedUnits_natAbs_self (num : Int) : signedUnits (decide (num < 0)) num.natAbs = num := by
  by_cases h : num < 0
  · rw [decide_eq_true h, signedUnits, if_pos rfl]
    omega
  · rw [decide_eq_false h, signedUnits, if_neg (by decide)]
    omega

theorem natAbs_signedUnits_sub (neg : Bool) (n d u : Nat) :
    (signedUnits neg n - d * signedUnits neg u).natAbs = ((n : Int) - d * u).natAbs := by
  cases neg with
  | false => rfl
  | true => rw [← Int.natAbs_neg]; simp [signedUnits]; ring_nf

section
variable {x c : F64} {num r v : Int} {den : Nat}

/-- What is rounded from at most a finite number is at most that number. -/
theorem RoundsToNearest.le_of_le (h : RoundsToNearest x num den) (hden : 0 < den)
    (hx : finiteValue x = some r) (hc : finiteValue c = some v) (hle : num ≤ den * v) : r ≤ v := by
  obtain ⟨hnear, -⟩ := h.2.2 r hx c v hc
  by_contra hlt
  have hstep : (den : Int) * v < den * r := mul_lt_mul_of_pos_left (by omega) (by omega)
  omega

/-- What is rounded from at least a finite number is at least that number. -/
theorem RoundsToNearest.le_of_ge (h : RoundsToNearest x num den) (hden : 0 < den)
    (hx : finiteValue x = some r) (hc : finiteValue c = some v) (hge : den * v ≤ num) : v ≤ r := by
  obtain ⟨hnear, -⟩ := h.2.2 r hx c v hc
  by_contra hlt
  have hstep : (den : Int) * r < den * v := mul_lt_mul_of_pos_left (by omega) (by omega)
  omega

/-- The nearest number is at least as near as the one that `roundUnits` gives. -/
theorem RoundsToNearest.error (h : RoundsToNearest x num den) (hden : 0 < den)
    (hlt : num.natAbs < overflowUnits * den) (hnormal : 2 ^ 52 * den ≤ num.natAbs)
    (hx : finiteValue x = some r) : 2 ^ 53 * (num - den * r).natAbs ≤ num.natAbs := by
  have hr : Ratio num.natAbs den := by
    refine ⟨hden, hlt.trans_le ?_⟩
    rw [Nat.mul_comm den]
    exact Nat.mul_le_mul_right den overflowUnits_le
  obtain ⟨hnear, -⟩ := h.2.2 r hx _ _ (finiteValue_roundUnits (neg := decide (num < 0)) hr hlt)
  have herror := roundedUnits_error hr hnormal
  rw [← natAbs_signedUnits_sub (decide (num < 0)), signedUnits_natAbs_self] at herror
  exact (Nat.mul_le_mul_left _ hnear).trans herror

end

/-- `r` is `q` rounded, by what the solve's bounds need of it: it passes no binary64 number, and in
the normal range (here from 2^-200 on) its relative error is at most 2^-53. -/
structure Rounded (q r : ℚ) : Prop where
  le : ∀ {y : F64} {c : ℚ}, HasValue y c → q ≤ c → r ≤ c
  ge : ∀ {y : F64} {c : ℚ}, HasValue y c → c ≤ q → c ≤ r
  error : 1 / 2 ^ 200 ≤ |q| → 2 ^ 53 * |q - r| ≤ |q|

section
variable {x : F64} {num r : Int} {den : Nat} {q : ℚ}

theorem natAbs_eq_scaled (hden : 0 < den) (hq : q * 2 ^ 1074 * den = num) :
    (num.natAbs : ℚ) = |q| * 2 ^ 1074 * den := by
  have hD : (0 : ℚ) < den := by exact_mod_cast hden
  rw [Nat.cast_natAbs, Int.cast_abs, ← hq, abs_mul, abs_mul, abs_of_pos (two_pow_pos_rat 1074),
    abs_of_pos hD]

theorem natAbs_lt_overflow (hden : 0 < den) (hq : q * 2 ^ 1074 * den = num)
    (hrange : |q| ≤ 2 ^ 200) : num.natAbs < overflowUnits * den := by
  have hD : (0 : ℚ) < den := by exact_mod_cast hden
  have hscale : |q| * 2 ^ 1074 < (overflowUnits : ℚ) := by
    refine (mul_le_mul_of_nonneg_right hrange (two_pow_pos_rat 1074).le).trans_lt ?_
    rw [← pow_add]
    exact_mod_cast lt_overflowUnits
  have : (num.natAbs : ℚ) < (overflowUnits * den : Nat) := by
    rw [natAbs_eq_scaled hden hq, Nat.cast_mul]
    exact mul_lt_mul_of_pos_right hscale hD
  exact_mod_cast this

theorem le_natAbs_of_normal (hden : 0 < den) (hq : q * 2 ^ 1074 * den = num)
    (hnormal : 1 / 2 ^ 200 ≤ |q|) : 2 ^ 52 * den ≤ num.natAbs := by
  have hunits : (2 : ℚ) ^ 52 ≤ |q| * 2 ^ 1074 :=
    calc (2 : ℚ) ^ 52 ≤ 2 ^ 874 := pow_le_pow_right₀ (by norm_num) (by omega)
      _ = 1 / 2 ^ 200 * 2 ^ (200 + 874) := by rw [pow_add]; field_simp
      _ ≤ |q| * 2 ^ 1074 := mul_le_mul_of_nonneg_right hnormal (two_pow_pos_rat 1074).le
  have : ((2 ^ 52 * den : Nat) : ℚ) ≤ num.natAbs := by
    rw [natAbs_eq_scaled hden hq, Nat.cast_mul, Nat.cast_pow, Nat.cast_ofNat]
    exact mul_le_mul_of_nonneg_right hunits (Nat.cast_nonneg den)
  exact_mod_cast this

/-- The relative error in rational numbers. -/
theorem RoundsToNearest.relative_error (h : RoundsToNearest x num den) (hden : 0 < den)
    (hq : q * 2 ^ 1074 * den = num) (hrange : |q| ≤ 2 ^ 200) (hx : finiteValue x = some r)
    (hnormal : 1 / 2 ^ 200 ≤ |q|) : 2 ^ 53 * |q - r / 2 ^ 1074| ≤ |q| := by
  have hscale : (0 : ℚ) < 2 ^ 1074 * den :=
    mul_pos (two_pow_pos_rat 1074) (by exact_mod_cast hden)
  have herror : (2 ^ 53 : ℚ) * (num - den * r : Int).natAbs ≤ num.natAbs := by
    exact_mod_cast h.error hden (natAbs_lt_overflow hden hq hrange)
      (le_natAbs_of_normal hden hq hnormal) hx
  have hexact : ((num - den * r : Int) : ℚ) = (q - r / 2 ^ 1074) * (2 ^ 1074 * den) := by
    push_cast
    rw [← hq]
    field_simp
  rw [natAbs_eq_scaled hden hq, Nat.cast_natAbs, Int.cast_abs, hexact, abs_mul, abs_of_pos hscale,
    mul_assoc, ← mul_assoc] at herror
  exact le_of_mul_le_mul_right herror hscale

/-- Rounding within [-2^200, 2^200] overflows nowhere. -/
theorem exists_rounded (h : RoundsToNearest x num den) (hden : 0 < den)
    (hq : q * 2 ^ 1074 * den = num) (hrange : |q| ≤ 2 ^ 200) : ∃ r, HasValue x r ∧ Rounded q r := by
  have hU := two_pow_pos_rat 1074
  have hD : (0 : ℚ) < den := by exact_mod_cast hden
  have hscaled : ∀ c : ℚ, (den : ℚ) * (c * 2 ^ 1074) = c * 2 ^ 1074 * den := fun c => mul_comm _ _
  obtain ⟨r, hr⟩ := h.2.1 (natAbs_lt_overflow hden hq hrange)
  refine ⟨r / 2 ^ 1074, ⟨r, hr, div_mul_cancel₀ _ hU.ne'⟩, ?_, ?_,
    h.relative_error hden hq hrange hr⟩
  · rintro y c ⟨v, hv, hcv⟩ hle
    have hnum : (num : ℚ) ≤ den * v := by
      rw [← hq, ← hcv, hscaled]
      gcongr
    rw [div_le_iff₀ hU, hcv, Int.cast_le]
    exact h.le_of_le hden hr hv (by exact_mod_cast hnum)
  · rintro y c ⟨v, hv, hcv⟩ hge
    have hnum : (den * v : ℚ) ≤ num := by
      rw [← hq, ← hcv, hscaled]
      gcongr
    rw [le_div_iff₀ hU, hcv, Int.cast_le]
    exact h.le_of_ge hden hr hv (by exact_mod_cast hnum)

end

/-! ### The operations within range -/

section
variable {a b : F64} {p q : ℚ}

theorem HasValue.add (ha : HasValue a p) (hb : HasValue b q) (hrange : |p + q| ≤ 2 ^ 200) :
    ∃ r, HasValue (f64Add a b) r ∧ Rounded (p + q) r := by
  obtain ⟨v, hv, hpv⟩ := ha
  obtain ⟨w, hw, hqw⟩ := hb
  refine exists_rounded (arithmeticRoundsToNearestEven a b v w hv hw).1 Nat.one_pos ?_ hrange
  rw [Nat.cast_one, mul_one, add_mul, hpv, hqw, Int.cast_add]

theorem HasValue.sub (ha : HasValue a p) (hb : HasValue b q) (hrange : |p - q| ≤ 2 ^ 200) :
    ∃ r, HasValue (f64Sub a b) r ∧ Rounded (p - q) r := by
  rw [sub_eq_add_neg] at hrange ⊢
  exact ha.add hb.neg hrange

theorem HasValue.mul (ha : HasValue a p) (hb : HasValue b q) (hrange : |p * q| ≤ 2 ^ 200) :
    ∃ r, HasValue (f64Mul a b) r ∧ Rounded (p * q) r := by
  obtain ⟨v, hv, hpv⟩ := ha
  obtain ⟨w, hw, hqw⟩ := hb
  refine exists_rounded (arithmeticRoundsToNearestEven a b v w hv hw).2.2.1 (by positivity) ?_ hrange
  rw [Nat.cast_pow, Nat.cast_ofNat, Int.cast_mul, ← hpv, ← hqw, mul_assoc,
    mul_mul_mul_comm]

theorem HasValue.div (ha : HasValue a p) (hb : HasValue b q) (hq : 0 < q)
    (hrange : |p / q| ≤ 2 ^ 200) : ∃ r, HasValue (f64Div a b) r ∧ Rounded (p / q) r := by
  obtain ⟨v, hv, hpv⟩ := ha
  obtain ⟨w, hw, hqw⟩ := hb
  have hw0 : 0 < w := by
    have : (0 : ℚ) < w := hqw ▸ mul_pos hq (two_pow_pos_rat 1074)
    exact_mod_cast this
  have habs : (w.natAbs : ℚ) = q * 2 ^ 1074 := by
    rw [hqw, Nat.cast_natAbs, abs_of_pos hw0]
  refine exists_rounded ((arithmeticRoundsToNearestEven a b v w hv hw).2.2.2 hw0.ne') (by omega) ?_
    hrange
  rw [habs, Int.sign_eq_one_of_pos hw0, mul_one, Int.cast_mul, Int.cast_pow, Int.cast_ofNat, ← hpv]
  field_simp

end

end Sys2Proof.Machine
end

section
namespace Sys2Proof.Machine

/-! ### A finite encoding is its sign and its value -/

theorem unitsOf_lt_succ (mag : Nat) : unitsOf mag < unitsOf (mag + 1) := by
  have hfr : mag % 2 ^ 52 < 2 ^ 52 := Nat.mod_lt _ (by positivity)
  rw [← Nat.div_add_mod mag (2 ^ 52), Nat.add_assoc]
  generalize mag / 2 ^ 52 = ex at *
  generalize mag % 2 ^ 52 = fr at *
  have hpow : 0 < 2 ^ (ex - 1) := Nat.two_pow_pos _
  rw [unitsOf_fields hfr]
  rcases Nat.lt_or_ge (fr + 1) (2 ^ 52) with hlt | hge
  · rw [unitsOf_fields hlt]
    split
    · omega
    · exact Nat.mul_lt_mul_of_pos_right (by omega) hpow
  · have hcarry : 2 ^ 52 * ex + (fr + 1) = 2 ^ 52 * (ex + 1) + 0 := by omega
    rw [hcarry, unitsOf_fields (by omega), if_neg (Nat.succ_ne_zero ex), Nat.add_sub_cancel]
    split
    next h0 => simpa [h0] using hfr
    next h0 =>
      obtain ⟨e, rfl⟩ := Nat.exists_eq_succ_of_ne_zero h0
      have hsucc : 2 ^ (e + 1) = 2 * 2 ^ e := Nat.pow_succ'
      rw [Nat.succ_eq_add_one, Nat.add_sub_cancel, hsucc, ← Nat.mul_assoc]
      exact Nat.mul_lt_mul_of_pos_right (by omega) hpow

theorem unitsOf_strictMono : StrictMono unitsOf := strictMono_nat_of_lt_succ unitsOf_lt_succ

theorem units_of_unpack_fin {x : F64} {n : Bool} {u : Nat} (h : unpack x = .fin n u) :
    u = unitsOf (x.toNat % 2 ^ 63) := by
  simp only [unpack] at h
  split at h
  next => exact (F64Class.fin.inj h).2.symm
  next => split at h <;> cases h

/-- Two encodings with the same sign bit and the same 63 low bits. -/
theorem eq_of_sign_of_low {x y : F64} (hs : x.getLsbD 63 = y.getLsbD 63)
    (hlow : x.toNat % 2 ^ 63 = y.toNat % 2 ^ 63) : x = y := by
  apply BitVec.eq_of_getLsbD_eq
  intro i hi
  rcases Nat.lt_or_ge i 63 with hlt | hge
  · have hbit : (x.toNat % 2 ^ 63).testBit i = (y.toNat % 2 ^ 63).testBit i := by rw [hlow]
    rw [Nat.testBit_mod_two_pow, Nat.testBit_mod_two_pow, BitVec.testBit_toNat,
      BitVec.testBit_toNat] at hbit
    simpa [hlt] using hbit
  · obtain rfl : i = 63 := by omega
    exact hs

section
variable {a b x y : F64} {p q r : ℚ}

theorem HasValue.ext (hx : HasValue x q) (hy : HasValue y q)
    (hs : x.getLsbD 63 = y.getLsbD 63) : x = y := by
  obtain ⟨v, hv, hqv⟩ := hx
  obtain ⟨w, hw, hqw⟩ := hy
  obtain rfl : v = w := by exact_mod_cast hqv.symm.trans hqw
  obtain ⟨u, hu, rfl, -⟩ := finiteValue_some hv
  obtain ⟨u', hu', heq, -⟩ := finiteValue_some hw
  have hmag : u = u' := by
    rw [← signedUnits_natAbs (x.getLsbD 63) u, heq, signedUnits_natAbs]
  rw [units_of_unpack_fin hu, units_of_unpack_fin hu'] at hmag
  exact eq_of_sign_of_low hs (unitsOf_strictMono.injective hmag)

/-- A binary64 number is rounded to itself. -/
theorem Rounded.eq_of_hasValue (h : Rounded q r) (hq : HasValue x q) : r = q :=
  le_antisymm (h.le hq le_rfl) (h.ge hq le_rfl)

/-! ### Bounds of a rounding -/

theorem Rounded.le_natCast (h : Rounded q r) {k : Nat} (hk : k < 2 ^ 53) (hle : q ≤ k) : r ≤ k :=
  h.le (hasValue_ofNat hk) hle

theorem Rounded.nonneg (h : Rounded q r) (hq : 0 ≤ q) : 0 ≤ r := h.ge hasValue_zero hq

/-- A bound `2^-k` from below is a binary64 number. -/
theorem Rounded.le_of_scale (h : Rounded q r) {k : Nat} (hk : k ≤ 1074) (hq : 1 / 2 ^ k ≤ q) :
    1 / 2 ^ k ≤ r := by
  obtain ⟨y, hy⟩ := exists_hasValue_scaled (m := 1) (k := k) (by omega) hk
  rw [Nat.cast_one] at hy
  exact h.ge hy hq

/-- A number is 0 or at least 2^-32, as the probabilities and the sums of a solve are (R132). -/
def ZeroOrSizable (q : ℚ) : Prop := q = 0 ∨ 1 / 2 ^ 32 ≤ q

theorem ZeroOrSizable.nonneg (h : ZeroOrSizable q) : 0 ≤ q := by
  rcases h with rfl | h
  · exact le_rfl
  · exact le_trans (by positivity) h

theorem ZeroOrSizable.add (hp : ZeroOrSizable p) (hq : ZeroOrSizable q) : ZeroOrSizable (p + q) := by
  rcases hp with rfl | hp
  · rwa [zero_add]
  · exact .inr (le_add_of_le_of_nonneg hp hq.nonneg)

theorem ZeroOrSizable.natCast_mul (hq : ZeroOrSizable q) (k : Nat) : ZeroOrSizable (k * q) := by
  rcases hq with rfl | hq
  · exact .inl (mul_zero _)
  · rcases Nat.eq_zero_or_pos k with rfl | hk
    · exact .inl (by rw [Nat.cast_zero, zero_mul])
    · have hone : (1 : ℚ) ≤ k := by exact_mod_cast hk
      exact .inr (hq.trans (le_mul_of_one_le_left (le_trans (by positivity) hq) hone))

theorem Rounded.zeroOrSizable (h : Rounded q r) (hq : ZeroOrSizable q) : ZeroOrSizable r := by
  rcases hq with rfl | hq
  · exact .inl (h.eq_of_hasValue hasValue_zero)
  · exact .inr (h.le_of_scale (by omega) hq)

/-- The relative error from below and from above. -/
theorem Rounded.bounds (h : Rounded q r) (hq : q = 0 ∨ 1 / 2 ^ 200 ≤ q) :
    (1 - 1 / 2 ^ 53) * q ≤ r ∧ r ≤ (1 + 1 / 2 ^ 53) * q := by
  rcases hq with rfl | hq
  · rw [h.eq_of_hasValue hasValue_zero]
    simp
  · have hpos : 0 ≤ q := le_trans (by positivity) hq
    have herror := h.error (by rwa [abs_of_nonneg hpos])
    rw [abs_of_nonneg hpos] at herror
    have hhalf : |q - r| ≤ q / 2 ^ 53 := by
      rw [le_div_iff₀ (by positivity)]
      linarith
    obtain ⟨hlo, hhi⟩ := abs_le.mp hhalf
    constructor <;> linarith

theorem ZeroOrSizable.normal (h : ZeroOrSizable q) : q = 0 ∨ 1 / 2 ^ 200 ≤ q :=
  h.imp_right fun hq => le_trans (one_div_le_one_div_of_le (by positivity)
    (pow_le_pow_right₀ (by norm_num) (by omega))) hq

end

end Sys2Proof.Machine
end

section
namespace Sys2Proof.Machine

/-! ### The probabilities and the sums of a solve (41_otsu.md R132) -/

/-- `x` is a finite number that is 0 or at least 2^-32, at most `k`, and below the exact number `e` by
at most the relative error of `j` roundings. -/
def Tracks (x : F64) (k j : Nat) (e : ℚ) : Prop :=
  ∃ r, HasValue x r ∧ r ≤ k ∧ ZeroOrSizable r ∧ (1 - 1 / 2 ^ 53) ^ j * e ≤ r

theorem range_of_le {q : ℚ} {k : Nat} (h0 : 0 ≤ q) (hle : q ≤ k) (hk : k < 2 ^ 53) :
    |q| ≤ 2 ^ 200 := by
  rw [abs_of_nonneg h0]
  refine hle.trans ?_
  exact_mod_cast hk.le.trans (Nat.pow_le_pow_right Nat.two_pos (by omega))

theorem rounding_factor_le {j j' : Nat} (h : j' ≤ j) :
    (1 - 1 / 2 ^ 53 : ℚ) ^ j ≤ (1 - 1 / 2 ^ 53) ^ j' :=
  pow_le_pow_of_le_one (by norm_num) (by norm_num) h

section
variable {a b x : F64} {k k' j j' : Nat} {e e' : ℚ}

theorem Tracks.isFinite (h : Tracks x k j e) : isFinite x := by
  obtain ⟨r, hr, -⟩ := h
  exact hr.isFinite

theorem Tracks.mono (h : Tracks x k j e) (hk : k ≤ k') : Tracks x k' j e := by
  obtain ⟨r, hr, hrk, hrest⟩ := h
  exact ⟨r, hr, hrk.trans (by exact_mod_cast hk), hrest⟩

/-- One more rounding. -/
theorem tracks_of_rounded {q r : ℚ} (hx : HasValue x r) (hr : Rounded q r) (hk : k < 2 ^ 53)
    (hle : q ≤ k) (hq : ZeroOrSizable q) (he : (1 - 1 / 2 ^ 53) ^ j * e ≤ q) :
    Tracks x k (j + 1) e := by
  refine ⟨r, hx, hr.le_natCast hk hle, hr.zeroOrSizable hq, ?_⟩
  obtain ⟨hlo, -⟩ := hr.bounds hq.normal
  rw [pow_succ', mul_assoc]
  exact (mul_le_mul_of_nonneg_left he (by norm_num)).trans hlo

theorem Tracks.add (ha : Tracks a k j e) (hb : Tracks b k' j' e') (hj : j' ≤ j) (he' : 0 ≤ e')
    (hk : k + k' < 2 ^ 53) : Tracks (f64Add a b) (k + k') (j + 1) (e + e') := by
  obtain ⟨p, hp, hpk, hp0, hpe⟩ := ha
  obtain ⟨q, hq, hqk, hq0, hqe⟩ := hb
  have hle : p + q ≤ (k + k' : Nat) := by rw [Nat.cast_add]; exact add_le_add hpk hqk
  have hsum := hp0.add hq0
  obtain ⟨r, hr, hround⟩ := hp.add hq (range_of_le hsum.nonneg hle hk)
  refine tracks_of_rounded hr hround hk hle hsum ?_
  rw [mul_add]
  exact add_le_add hpe ((mul_le_mul_of_nonneg_right (rounding_factor_le hj) he').trans hqe)

theorem Tracks.natCast_mul (h : Tracks x 1 j e) {i : Nat} (hi : i < 2 ^ 53) :
    Tracks (f64Mul (f64OfNat i) x) i (j + 1) (i * e) := by
  obtain ⟨p, hp, hp1, hp0, hpe⟩ := h
  have hle : i * p ≤ (i : ℚ) := mul_le_of_le_one_right (Nat.cast_nonneg i) (by exact_mod_cast hp1)
  have hprod := hp0.natCast_mul i
  obtain ⟨r, hr, hround⟩ := (hasValue_ofNat hi).mul hp (range_of_le hprod.nonneg hle hi)
  refine tracks_of_rounded hr hround hi hle hprod ?_
  rw [mul_left_comm]
  exact mul_le_mul_of_nonneg_left hpe (Nat.cast_nonneg i)

end

/-- The number of samples in bin `i`. -/
def binCount (s : State) (i : Nat) : Nat := (bin s (BitVec.ofNat 8 i)).toNat

theorem binCount_toNat (s : State) (v : Byte) : binCount s v.toNat = (bin s v).toNat := by
  rw [binCount, BitVec.ofNat_toNat, BitVec.setWidth_eq]

theorem sum_binCount (s : State) : ∑ i ∈ Finset.range 256, binCount s i = binSum s.H := by
  rw [binSum, toList_eq_map_bin, List.map_map, ← List.range_eq_range']
  rfl

/-- The exact share of bin `i`. -/
def share (s : State) (i : Nat) : ℚ := binCount s i / s.N.toNat

theorem share_nonneg (s : State) (i : Nat) : 0 ≤ share s i := by
  rw [share]
  positivity

theorem toNat_pos_of_ne_zero {n : Word} (h : n ≠ 0) : 0 < n.toNat :=
  Nat.pos_of_ne_zero fun h0 => h (BitVec.eq_of_toNat_eq h0)

theorem natCast_toNat_pos {n : Word} (h : n ≠ 0) : (0 : ℚ) < n.toNat := by
  exact_mod_cast toNat_pos_of_ne_zero h

theorem natCast_toNat_le (n : Word) : (n.toNat : ℚ) ≤ 2 ^ 32 := by exact_mod_cast n.isLt.le

theorem Conserved.toNat_eq_sum {s : State} (hc : Conserved s) :
    s.N.toNat = ∑ i ∈ Finset.range 256, binCount s i := hc.trans (sum_binCount s).symm

theorem hasValue_word (n : Word) : HasValue (f64OfNat n.toNat) n.toNat :=
  hasValue_ofNat (n.isLt.trans (by decide))

section
variable {s : State}

theorem share_le_one (hc : Conserved s) (i : Nat) : share s i ≤ 1 := by
  have hle : binCount s i ≤ s.N.toNat := (bin_le_binSum s _).trans hc.ge
  exact div_le_one_of_le₀ (by exact_mod_cast hle) (Nat.cast_nonneg _)

/-- A share is 0 or at least one of fewer than 2^32 samples. -/
theorem share_zeroOrSizable (hN : s.N ≠ 0) (i : Nat) : ZeroOrSizable (share s i) := by
  have hN0 := natCast_toNat_pos hN
  rcases Nat.eq_zero_or_pos (binCount s i) with h0 | hpos
  · left
    rw [share, h0, Nat.cast_zero, zero_div]
  · right
    rw [share, div_le_div_iff₀ (by positivity) hN0]
    have hlt : s.N.toNat ≤ 2 ^ 32 := s.N.isLt.le
    have : 1 * s.N.toNat ≤ binCount s i * 2 ^ 32 := Nat.mul_le_mul hpos hlt
    exact_mod_cast this

theorem exists_rounded_refP (hc : Conserved s) (hN : s.N ≠ 0) (i : Nat) :
    ∃ p, HasValue (refP s i) p ∧ Rounded (share s i) p := by
  have hN0 := natCast_toNat_pos hN
  have hle : share s i ≤ (1 : Nat) := by exact_mod_cast share_le_one hc i
  exact (hasValue_word _).div (hasValue_word s.N) hN0 (range_of_le (share_nonneg s i) hle (by decide))

theorem tracks_refP (hc : Conserved s) (hN : s.N ≠ 0) (i : Nat) :
    Tracks (refP s i) 1 1 (share s i) := by
  obtain ⟨p, hp, hround⟩ := exists_rounded_refP hc hN i
  exact tracks_of_rounded hp hround (by decide) (by exact_mod_cast share_le_one hc i)
    (share_zeroOrSizable hN i) (by rw [pow_zero, one_mul])

theorem tracks_term (hc : Conserved s) (hN : s.N ≠ 0) {i : Nat} (hi : i < 256) :
    Tracks (f64Mul (f64OfNat i) (refP s i)) i 2 (i * share s i) :=
  (tracks_refP hc hN i).natCast_mul (by omega)

theorem tracks_refMean (hc : Conserved s) (hN : s.N ≠ 0) {n : Nat} (hn : n ≤ 256) :
    Tracks (refMean s n) (255 * n) (n + 2) (∑ i ∈ Finset.range n, i * share s i) := by
  induction n with
  | zero => exact ⟨0, hasValue_zero, by simp, .inl rfl, by simp⟩
  | succ n ih =>
    rw [Finset.sum_range_succ]
    have hterm := (tracks_term hc hN (i := n) (by omega)).mono (k' := 255) (by omega)
    exact (ih (by omega)).add hterm (by omega)
      (mul_nonneg (Nat.cast_nonneg n) (share_nonneg s n)) (by omega)

theorem tracks_refW (hc : Conserved s) (hN : s.N ≠ 0) {n : Nat} (hn : n ≤ 256) :
    Tracks (refW s n) n (n + 1) (∑ i ∈ Finset.range n, share s i) := by
  induction n with
  | zero => exact ⟨0, hasValue_zero, by simp, .inl rfl, by simp⟩
  | succ n ih =>
    rw [Finset.sum_range_succ]
    exact (ih (by omega)).add (tracks_refP hc hN n) (by omega) (share_nonneg s n) (by omega)

/-- The sweep's running mean is the mean of step 2, term by term (41_otsu.md R124). -/
theorem refMu_eq_refMean (s : State) (n : Nat) : refMu s n = refMean s n := by
  induction n with
  | zero => rfl
  | succ n ih => rw [refMu, refMean, ih]

end

end Sys2Proof.Machine
end

section
namespace Sys2Proof.Machine

/-! ### The variance of a candidate (41_otsu.md R126, R132) -/

/-- A multiple of the place `P`, or what is below the middle, leaves a place below `2^53` places. -/
theorem place_below {u P : Nat} (h : P ∣ u ∨ u < 2 ^ 52 * P) (hlt : u < 2 ^ 53 * P) :
    u + P ≤ 2 ^ 53 * P := by
  rcases h with ⟨m, rfl⟩ | h
  · rw [Nat.mul_comm (2 ^ 53)] at hlt ⊢
    have hm : m + 1 ≤ 2 ^ 53 := Nat.lt_of_mul_lt_mul_left hlt
    exact (Nat.mul_succ P m).symm.le.trans (Nat.mul_le_mul_left P hm)
  · omega

theorem signedUnits_add_place_le {neg : Bool} {u P : Nat} (h : P ∣ u ∨ u < 2 ^ 52 * P)
    (hlt : signedUnits neg u < 2 ^ 53 * P) : signedUnits neg u + P ≤ 2 ^ 53 * P := by
  cases neg with
  | false =>
    rw [signedUnits, if_neg (by decide)] at hlt ⊢
    exact_mod_cast place_below h (by exact_mod_cast hlt)
  | true =>
    rw [signedUnits, if_pos rfl]
    omega

/-- A binary64 number below 1 is at most 1 - 2^-53. -/
theorem HasValue.one_sub {x : F64} {q : ℚ} (h : HasValue x q) (hq : q < 1) :
    1 / 2 ^ 53 ≤ 1 - q := by
  obtain ⟨v, hv, hqv⟩ := h
  obtain ⟨u, -, rfl, mag, -, rfl⟩ := finiteValue_some hv
  have hgap := unitsOf_dvd_or_lt mag 1021
  have hP : (0 : ℚ) < (2 ^ 1021 : Nat) := by rw [Nat.cast_pow]; exact two_pow_pos_rat 1021
  have hsplit : (2 : ℚ) ^ 1074 = 2 ^ 53 * (2 ^ 1021 : Nat) := by
    rw [Nat.cast_pow, Nat.cast_ofNat, ← pow_add]
  rw [hsplit] at hqv
  generalize 2 ^ 1021 = P at *
  have hlt : signedUnits (x.getLsbD 63) (unitsOf mag) < 2 ^ 53 * P := by
    have : q * (2 ^ 53 * P) < 1 * (2 ^ 53 * P) := by gcongr
    rw [hqv, one_mul] at this
    exact_mod_cast this
  have hle : q * (2 ^ 53 * P) + P ≤ 2 ^ 53 * P := by
    rw [hqv]
    exact_mod_cast signedUnits_add_place_le hgap hlt
  rw [div_le_iff₀ (by positivity)]
  refine le_of_mul_le_mul_right ?_ hP
  linarith

theorem refCandidate_iff {s : State} {i : Nat} {w : ℚ} (hw : HasValue (refW s (i + 1)) w) :
    refCandidate s i = true ↔ 0 < w ∧ w < 1 := by
  rw [refCandidate, Bool.and_eq_true, hasValue_zero.lt_iff hw, hw.lt_iff hasValue_one]

section
variable {s : State} {i : Nat}

/-- The sum of a candidate, its complement and their product stay away from 0. -/
theorem candidate_denominator (hc : Conserved s) (hN : s.N ≠ 0) (hi : i < 256)
    (hcand : refCandidate s i = true) :
    ∃ w d den, HasValue (refW s (i + 1)) w ∧ 0 < w ∧ w < 1 ∧
      HasValue (f64Sub f64One (refW s (i + 1))) d ∧
      HasValue (refDenominator s i) den ∧ 1 / 2 ^ 85 ≤ den ∧ den ≤ 1 := by
  obtain ⟨w, hw, -, hw0, -⟩ := tracks_refW hc hN (n := i + 1) (by omega)
  obtain ⟨hpos, hlt⟩ := (refCandidate_iff hw).mp hcand
  have hwlo : 1 / 2 ^ 32 ≤ w := hw0.resolve_left hpos.ne'
  have hgap := hw.one_sub hlt
  obtain ⟨d, hd, hdr⟩ := hasValue_one.sub hw (range_of_le (k := 1) (by linarith)
    (by push_cast; linarith) (by decide))
  have hdlo : 1 / 2 ^ 53 ≤ d := hdr.le_of_scale (by omega) hgap
  have hdhi : d ≤ 1 := by simpa using hdr.le_natCast (k := 1) (by decide) (by push_cast; linarith)
  have hprodlo : (1 : ℚ) / 2 ^ 85 ≤ w * d :=
    calc (1 : ℚ) / 2 ^ 85 = 1 / 2 ^ 32 * (1 / 2 ^ 53) := by norm_num
      _ ≤ w * d := mul_le_mul hwlo hdlo (by positivity) hpos.le
  have hprodhi : w * d ≤ (1 : Nat) := by
    rw [Nat.cast_one]
    exact mul_le_one₀ hlt.le (le_trans (by positivity) hdlo) hdhi
  obtain ⟨den, hden, hdenr⟩ := hw.mul hd
    (range_of_le (le_trans (by positivity) hprodlo) hprodhi (by decide))
  exact ⟨w, d, den, hw, hpos, hlt, hd, hden, hdenr.le_of_scale (by omega) hprodlo,
    by simpa using hdenr.le_natCast (by decide) hprodhi⟩

/-- The numbers from -k to k stay there when rounded. -/
theorem Rounded.abs_le_natCast {q r : ℚ} (h : Rounded q r) {k : Nat} (hk : k < 2 ^ 53) (hle : |q| ≤ k) :
    |r| ≤ k := by
  obtain ⟨hlo, hhi⟩ := abs_le.mp hle
  exact abs_le.mpr ⟨h.ge (hasValue_ofNat hk).neg hlo, h.le_natCast hk hhi⟩

/-- The deviation's two roundings, from the values of the mean and of the running sums. -/
theorem deviation_of_values {m w mu : ℚ} (hm : HasValue (refMean s 256) m)
    (hw : HasValue (refW s (i + 1)) w) (hmu : HasValue (refMu s (i + 1)) mu)
    (hmrange : 0 ≤ m ∧ m ≤ (2 ^ 16 : Nat)) (hwrange : 0 ≤ w ∧ w ≤ 1)
    (hmurange : 0 ≤ mu ∧ mu ≤ (2 ^ 16 : Nat)) :
    ∃ a b, HasValue (f64Mul (refMean s 256) (refW s (i + 1))) a ∧ Rounded (m * w) a ∧
      HasValue (refDeviation s i) b ∧ Rounded (a - mu) b ∧ |b| ≤ (2 ^ 16 : Nat) := by
  obtain ⟨hm0, hmle⟩ := hmrange
  obtain ⟨hw0, hwle⟩ := hwrange
  obtain ⟨hmu0, hmule⟩ := hmurange
  have hprod0 : 0 ≤ m * w := mul_nonneg hm0 hw0
  have hprodle : m * w ≤ (2 ^ 16 : Nat) := (mul_le_of_le_one_right hm0 hwle).trans hmle
  obtain ⟨a, ha, har⟩ := hm.mul hw (range_of_le hprod0 hprodle (by decide))
  have hdiff : |a - mu| ≤ (2 ^ 16 : Nat) :=
    abs_sub_le_of_nonneg_of_le (har.nonneg hprod0) (har.le_natCast (by decide) hprodle) hmu0 hmule
  obtain ⟨b, hb, hbr⟩ := ha.sub hmu (hdiff.trans (by norm_num))
  exact ⟨a, b, ha, har, hb, hbr, hbr.abs_le_natCast (by decide) hdiff⟩

/-- Both running means are within [0, 2^16]. -/
theorem refMean_range (hc : Conserved s) (hN : s.N ≠ 0) {n : Nat} (hn : n ≤ 256) :
    ∃ m, HasValue (refMean s n) m ∧ 0 ≤ m ∧ m ≤ (2 ^ 16 : Nat) := by
  obtain ⟨m, hm, hmle, hm0, -⟩ := tracks_refMean hc hN hn
  exact ⟨m, hm, hm0.nonneg, hmle.trans (by exact_mod_cast (by omega))⟩

theorem candidate_deviation (hc : Conserved s) (hN : s.N ≠ 0) (hi : i < 256)
    (hcand : refCandidate s i = true) :
    ∃ a b, HasValue (f64Mul (refMean s 256) (refW s (i + 1))) a ∧
      HasValue (refDeviation s i) b ∧ |b| ≤ (2 ^ 16 : Nat) := by
  obtain ⟨w, -, -, hw, hpos, hlt, -⟩ := candidate_denominator hc hN hi hcand
  obtain ⟨m, hm, hmrange⟩ := refMean_range hc hN (n := 256) le_rfl
  obtain ⟨mu, hmu, hmurange⟩ := refMean_range hc hN (n := i + 1) hi
  rw [← refMu_eq_refMean] at hmu
  obtain ⟨a, b, ha, -, hb, -, hble⟩ :=
    deviation_of_values hm hw hmu hmrange ⟨hpos.le, hlt.le⟩ hmurange
  exact ⟨a, b, ha, hb, hble⟩

/-- The square of the deviation and its quotient by the denominator. -/
theorem candidate_variance (hc : Conserved s) (hN : s.N ≠ 0) (hi : i < 256)
    (hcand : refCandidate s i = true) {b : ℚ} (hb : HasValue (refDeviation s i) b)
    (hble : |b| ≤ (2 ^ 16 : Nat)) :
    ∃ num var, HasValue (f64Mul (refDeviation s i) (refDeviation s i)) num ∧
      HasValue (refVar s i) var ∧ 0 ≤ var ∧ (1 / 2 ^ 66 ≤ b → 0 < var) := by
  obtain ⟨-, -, den, -, -, -, -, hden, hdenlo, hdenhi⟩ := candidate_denominator hc hN hi hcand
  have hden0 : 0 < den := lt_of_lt_of_le (by positivity) hdenlo
  have hsq0 : 0 ≤ b * b := mul_self_nonneg b
  have hsqle : b * b ≤ (2 ^ 32 : Nat) := by
    rw [← abs_mul_abs_self]
    exact (mul_self_le_mul_self (abs_nonneg b) hble).trans (by norm_num)
  obtain ⟨num, hnum, hnumr⟩ := hb.mul hb (range_of_le hsq0 hsqle (by decide))
  have hnum0 : 0 ≤ num := hnumr.nonneg hsq0
  have hquot0 : 0 ≤ num / den := div_nonneg hnum0 hden0.le
  have hquotle : num / den ≤ 2 ^ 200 := by
    rw [div_le_iff₀ hden0]
    have := hnumr.le_natCast (by decide) hsqle
    push_cast at this
    linarith
  obtain ⟨var, hvar, hvarr⟩ := hnum.div hden hden0 (by rwa [abs_of_nonneg hquot0])
  refine ⟨num, var, hnum, hvar, hvarr.nonneg hquot0, fun hlo => ?_⟩
  have hsqlo : (1 : ℚ) / 2 ^ 132 ≤ b * b :=
    calc (1 : ℚ) / 2 ^ 132 = 1 / 2 ^ 66 * (1 / 2 ^ 66) := by norm_num
      _ ≤ b * b := mul_self_le_mul_self (by positivity) hlo
  have hnumlo := hnumr.le_of_scale (by omega) hsqlo
  have hquotlo := hnumlo.trans (le_div_self hnum0 hden0 hdenhi)
  exact lt_of_lt_of_le (by positivity) (hvarr.le_of_scale (by omega) hquotlo)

end

/-- Settles O35: every value has a bound far below overflow, and a candidate's denominator is not 0. -/
theorem solveStaysFinite : Obligations.SolveStaysFinite := by
  intro s i hc hN hi
  refine ⟨(tracks_refP hc hN i).isFinite, (tracks_term hc hN hi).isFinite,
    (tracks_refMean hc hN hi).isFinite, (tracks_refW hc hN hi).isFinite,
    refMu_eq_refMean s _ ▸ (tracks_refMean hc hN hi).isFinite, fun hcand => ?_⟩
  obtain ⟨w, d, den, -, -, -, hd, hden, hdenlo, -⟩ := candidate_denominator hc hN hi hcand
  obtain ⟨a, b, ha, hb, hble⟩ := candidate_deviation hc hN hi hcand
  obtain ⟨num, var, hnum, hvar, hvar0, -⟩ := candidate_variance hc hN hi hcand hb hble
  refine ⟨ha.isFinite, hb.isFinite, hnum.isFinite, hd.isFinite, hden.isFinite, ?_, hvar.isFinite, ?_⟩
  · exact (hasValue_zero.lt_iff hden).mpr (lt_of_lt_of_le (by positivity) hdenlo)
  · rw [← Bool.not_eq_true, hvar.lt_iff hasValue_zero]
    exact not_lt.mpr hvar0

end Sys2Proof.Machine
end

section
namespace Sys2Proof.Machine

/-! ### Up to the first bin that is not zero (41_otsu.md R132, R134) -/

theorem f64OfNat_sign (k : Nat) : (f64OfNat k).getLsbD 63 = false := roundUnits_sign ..

section
variable {a b x : F64} {p q : ℚ}

theorem HasValue.mul_sign (ha : HasValue a p) (hb : HasValue b q) :
    (f64Mul a b).getLsbD 63 = (a.getLsbD 63 ^^ b.getLsbD 63) := by
  obtain ⟨v, hv, -⟩ := ha
  obtain ⟨w, hw, -⟩ := hb
  exact f64Mul_sign hv hw

theorem HasValue.div_sign (ha : HasValue a p) (hb : HasValue b q) (hq : q ≠ 0) :
    (f64Div a b).getLsbD 63 = (a.getLsbD 63 ^^ b.getLsbD 63) := by
  obtain ⟨v, hv, -⟩ := ha
  obtain ⟨w, hw, hqw⟩ := hb
  refine f64Div_sign hv hw fun h0 => hq ?_
  rw [h0, Int.cast_zero] at hqw
  exact (mul_eq_zero.mp hqw).resolve_right (two_pow_pos_rat 1074).ne'

/-- Adding to +0.0 keeps the value. -/
theorem HasValue.add_to_zero (h : HasValue x q) (hrange : |q| ≤ 2 ^ 200) :
    HasValue (f64Add f64Zero x) q := by
  obtain ⟨r, hr, hround⟩ := hasValue_zero.add h (by rwa [zero_add])
  rw [zero_add] at hround
  rwa [hround.eq_of_hasValue h] at hr

end

theorem f64Add_zero_zero : f64Add f64Zero f64Zero = f64Zero := by decide +kernel

theorem f64Add_zero_one : f64Add f64Zero f64One = f64One := by decide +kernel

theorem f64Add_one_zero : f64Add f64One f64Zero = f64One := by decide +kernel

/-- A product with +0.0 is +0.0. -/
theorem f64Mul_ofNat_zero {i : Nat} (hi : i < 2 ^ 53) : f64Mul (f64OfNat i) f64Zero = f64Zero := by
  obtain ⟨r, hr, hround⟩ := (hasValue_ofNat hi).mul hasValue_zero (by simp)
  rw [mul_zero] at hround
  rw [hround.eq_of_hasValue hasValue_zero] at hr
  refine hr.ext hasValue_zero ?_
  rw [(hasValue_ofNat hi).mul_sign hasValue_zero, f64OfNat_sign]
  rfl

section
variable {s : State} {i n : Nat}

theorem refP_sign (hN : s.N ≠ 0) (i : Nat) : (refP s i).getLsbD 63 = false := by
  rw [refP, (hasValue_word _).div_sign (hasValue_word s.N) (natCast_toNat_pos hN).ne', f64OfNat_sign, f64OfNat_sign]
  rfl

/-- A probability whose share is a binary64 number is that number. -/
theorem refP_eq_of_share (hc : Conserved s) (hN : s.N ≠ 0) {x : F64} (hx : HasValue x (share s i))
    (hsign : x.getLsbD 63 = false) : refP s i = x := by
  obtain ⟨p, hp, hround⟩ := exists_rounded_refP hc hN i
  rw [hround.eq_of_hasValue hx] at hp
  exact hp.ext hx ((refP_sign hN i).trans hsign.symm)

theorem refP_of_empty_bin (hc : Conserved s) (hN : s.N ≠ 0) (h : binCount s i = 0) :
    refP s i = f64Zero := by
  refine refP_eq_of_share hc hN ?_ rfl
  rw [share, h, Nat.cast_zero, zero_div]
  exact hasValue_zero

/-- Both running sums are +0.0 up to the first bin that is not zero. -/
theorem running_sums_zero (hc : Conserved s) (hN : s.N ≠ 0) (hn : n ≤ 256)
    (h : ∀ j, j < n → binCount s j = 0) : refW s n = f64Zero ∧ refMean s n = f64Zero := by
  induction n with
  | zero => exact ⟨rfl, rfl⟩
  | succ n ih =>
    obtain ⟨hw, hm⟩ := ih (by omega) fun j hj => h j (by omega)
    rw [refW, refMean, hw, hm, refP_of_empty_bin hc hN (h n (by omega)),
      f64Mul_ofNat_zero (by omega), f64Add_zero_zero]
    exact ⟨rfl, rfl⟩

end

/-! ### One bin that is not zero (41_otsu.md R134) -/

/-- Bin `c` is the only one that is not zero. -/
structure OnlyBin (s : State) (c : Nat) : Prop where
  inRange : c < 256
  others : ∀ j, j < 256 → j ≠ c → binCount s j = 0

section
variable {s : State} {c : Nat}

theorem OnlyBin.share_eq_one (h : OnlyBin s c) (hc : Conserved s) (hN : s.N ≠ 0) :
    share s c = 1 := by
  have hsum : ∑ i ∈ Finset.range 256, binCount s i = binCount s c :=
    Finset.sum_eq_single_of_mem c (Finset.mem_range.mpr h.inRange) fun j hj hne =>
      h.others j (Finset.mem_range.mp hj) hne
  have hall : binCount s c = s.N.toNat := hsum.symm.trans hc.toNat_eq_sum.symm
  rw [share, hall, div_self (natCast_toNat_pos hN).ne']

theorem OnlyBin.refP_eq_one (h : OnlyBin s c) (hc : Conserved s) (hN : s.N ≠ 0) :
    refP s c = f64One :=
  refP_eq_of_share hc hN (h.share_eq_one hc hN ▸ hasValue_one) (by decide)

/-- The running sum is +0.0 before the bin and 1.0 from it on. -/
theorem OnlyBin.refW_eq (h : OnlyBin s c) (hc : Conserved s) (hN : s.N ≠ 0) {n : Nat}
    (hn : n ≤ 256) : refW s n = if n ≤ c then f64Zero else f64One := by
  induction n with
  | zero => rw [if_pos (Nat.zero_le c), refW]
  | succ n ih =>
    rw [refW, ih (by omega)]
    rcases lt_trichotomy n c with hlt | rfl | hgt
    · rw [refP_of_empty_bin hc hN (h.others n (by omega) hlt.ne), if_pos hlt.le,
        if_pos (Nat.succ_le_of_lt hlt), f64Add_zero_zero]
    · rw [h.refP_eq_one hc hN, if_pos le_rfl, if_neg (by omega), f64Add_zero_one]
    · rw [refP_of_empty_bin hc hN (h.others n (by omega) hgt.ne'), if_neg (by omega),
        if_neg (by omega), f64Add_one_zero]

theorem OnlyBin.refCandidate_eq_false (h : OnlyBin s c) (hc : Conserved s) (hN : s.N ≠ 0) {i : Nat}
    (hi : i < 256) : refCandidate s i = false := by
  rw [refCandidate, h.refW_eq hc hN (Nat.succ_le_of_lt hi)]
  split
  · rw [f64Lt_irrefl, Bool.false_and]
  · rw [f64Lt_irrefl, Bool.and_false]

end

/-! ### Two bins that are not zero (41_otsu.md R132, R134, R135) -/

/-- Bin `f` is the first that is not zero, and bin `g` another. -/
structure FirstOfTwo (s : State) (f g : Nat) : Prop where
  lt : f < g
  inRange : g < 256
  first_ne : binCount s f ≠ 0
  other_ne : binCount s g ≠ 0
  below : ∀ j, j < f → binCount s j = 0

section
variable {s : State} {f g : Nat}

theorem FirstOfTwo.first_lt (h : FirstOfTwo s f g) : f < 256 := h.lt.trans h.inRange

/-- The other bin's samples are not in the first. -/
theorem FirstOfTwo.count_lt (h : FirstOfTwo s f g) (hc : Conserved s) :
    binCount s f + 1 ≤ s.N.toNat := by
  have hle : binCount s f + binCount s g ≤ ∑ i ∈ Finset.range 256, binCount s i := by
    rw [← Finset.sum_pair h.lt.ne]
    refine Finset.sum_le_sum_of_subset fun i hi => ?_
    have := h.lt
    have := h.inRange
    simp only [Finset.mem_insert, Finset.mem_singleton] at hi
    rw [Finset.mem_range]
    omega
  have hN := hc.toNat_eq_sum
  have := h.other_ne
  omega

/-- The mean sample is above `f`, as one sample is: `f * N + 1` is at most the sum of all samples. -/
theorem FirstOfTwo.sum_ge (h : FirstOfTwo s f g) (hc : Conserved s) :
    f * s.N.toNat + 1 ≤ ∑ i ∈ Finset.range 256, i * binCount s i := by
  have hone : ∑ i ∈ Finset.range 256, (if i = g then 1 else 0) = 1 := by
    rw [Finset.sum_ite_eq', if_pos (Finset.mem_range.mpr h.inRange)]
  rw [hc.toNat_eq_sum, Finset.mul_sum, ← hone, ← Finset.sum_add_distrib]
  refine Finset.sum_le_sum fun i _ => ?_
  split
  next hig =>
    subst hig
    have hstep : (f + 1) * binCount s i ≤ i * binCount s i := Nat.mul_le_mul_right _ h.lt
    have := h.other_ne
    rw [Nat.succ_mul] at hstep
    omega
  next =>
    rcases Nat.lt_or_ge i f with hlt | hge
    · rw [h.below i hlt, Nat.mul_zero, Nat.mul_zero]
    · exact Nat.mul_le_mul_right _ hge

/-- The exact mean is above `f` by at least one sample's share. -/
theorem FirstOfTwo.exact_mean_ge (h : FirstOfTwo s f g) (hc : Conserved s) (hN : s.N ≠ 0) :
    f + 1 / 2 ^ 32 ≤ ∑ i ∈ Finset.range 256, i * share s i := by
  have hN0 := natCast_toNat_pos hN
  have hNle := natCast_toNat_le s.N
  have hsum : ∑ i ∈ Finset.range 256, i * share s i =
      (∑ i ∈ Finset.range 256, i * binCount s i : Nat) / s.N.toNat := by
    simp only [share, mul_div_assoc', ← Finset.sum_div]
    push_cast
    rfl
  have hge : (f * s.N.toNat + 1 : ℚ) ≤ (∑ i ∈ Finset.range 256, i * binCount s i : Nat) := by
    exact_mod_cast h.sum_ge hc
  rw [hsum, le_div_iff₀ hN0]
  have hshare : 1 / 2 ^ 32 * (s.N.toNat : ℚ) ≤ 1 := by linarith
  linarith

/-- 258 roundings take at most 2^-44 of the mean. -/
theorem FirstOfTwo.mean_ge (h : FirstOfTwo s f g) (hc : Conserved s) (hN : s.N ≠ 0) :
    ∃ m, HasValue (refMean s 256) m ∧ m ≤ (2 ^ 16 : Nat) ∧ (1 - 1 / 2 ^ 44) * (f + 1 / 2 ^ 32) ≤ m := by
  obtain ⟨m, hm, hmle, -, hlo⟩ := tracks_refMean hc hN (n := 256) le_rfl
  have hfactor : (1 - 1 / 2 ^ 44 : ℚ) ≤ (1 - 1 / 2 ^ 53) ^ 258 := by
    have := one_add_mul_le_pow (a := (-(1 / 2 ^ 53) : ℚ)) (by norm_num) 258
    rw [← sub_eq_add_neg] at this
    exact le_trans (by norm_num) this
  refine ⟨m, hm, hmle.trans (by norm_num), le_trans ?_ hlo⟩
  exact mul_le_mul hfactor (h.exact_mean_ge hc hN) (by positivity) (by positivity)

theorem FirstOfTwo.share_bounds (h : FirstOfTwo s f g) (hc : Conserved s) (hN : s.N ≠ 0) :
    1 / 2 ^ 32 ≤ share s f ∧ share s f ≤ (2 ^ 32 - 1 : Nat) / 2 ^ 32 := by
  have hN0 := natCast_toNat_pos hN
  have hne : share s f ≠ 0 := div_ne_zero (by exact_mod_cast h.first_ne) hN0.ne'
  refine ⟨(share_zeroOrSizable hN f).resolve_left hne, ?_⟩
  have hcount : (binCount s f + 1 : ℚ) ≤ s.N.toNat := by exact_mod_cast h.count_lt hc
  have hNle := natCast_toNat_le s.N
  rw [share, div_le_div_iff₀ hN0 (by positivity)]
  push_cast
  linarith

/-- The first bin's probability is the running sum there, and lies between 0 and 1. -/
theorem FirstOfTwo.sum_value (h : FirstOfTwo s f g) (hc : Conserved s) (hN : s.N ≠ 0) :
    ∃ p, HasValue (refP s f) p ∧ HasValue (refW s (f + 1)) p ∧ 1 / 2 ^ 32 ≤ p ∧ p < 1 := by
  obtain ⟨p, hp, hround⟩ := exists_rounded_refP hc hN f
  obtain ⟨hlo, hhi⟩ := h.share_bounds hc hN
  obtain ⟨y, hy⟩ := exists_hasValue_scaled (m := 2 ^ 32 - 1) (k := 32) (by omega) (by omega)
  have hplo : 1 / 2 ^ 32 ≤ p := hround.le_of_scale (by omega) hlo
  have hphi : p < 1 := (hround.le hy hhi).trans_lt (by norm_num)
  have hrange : |p| ≤ 2 ^ 200 := range_of_le (k := 1) (le_trans (by positivity) hplo)
    (by exact_mod_cast hphi.le) (by decide)
  have hf := h.first_lt
  refine ⟨p, hp, ?_, hplo, hphi⟩
  rw [refW, (running_sums_zero hc hN (by omega) h.below).1]
  exact hp.add_to_zero hrange

theorem FirstOfTwo.refCandidate (h : FirstOfTwo s f g) (hc : Conserved s) (hN : s.N ≠ 0) :
    refCandidate s f = true := by
  obtain ⟨p, -, hw, hlo, hlt⟩ := h.sum_value hc hN
  exact (refCandidate_iff hw).mpr ⟨lt_of_lt_of_le (by positivity) hlo, hlt⟩

/-- The running mean at the first bin is one rounded product, at most 2^-53 above the exact one. -/
theorem FirstOfTwo.refMu_value (h : FirstOfTwo s f g) (hc : Conserved s) (hN : s.N ≠ 0) {p : ℚ}
    (hp : HasValue (refP s f) p) (hplo : 1 / 2 ^ 32 ≤ p) (hp1 : p < 1) :
    ∃ mu, HasValue (refMu s (f + 1)) mu ∧ (0 ≤ mu ∧ mu ≤ (2 ^ 16 : Nat)) ∧
      mu ≤ (1 + 1 / 2 ^ 53) * (f * p) := by
  have hf := h.first_lt
  have hprod : ZeroOrSizable (f * p) := ZeroOrSizable.natCast_mul (.inr hplo) f
  have hle : f * p ≤ (f : ℚ) := mul_le_of_le_one_right (Nat.cast_nonneg f) hp1.le
  obtain ⟨mu, hmu, hround⟩ := (hasValue_ofNat (by omega)).mul hp
    (range_of_le hprod.nonneg hle (by omega))
  have hmu0 : 0 ≤ mu := hround.nonneg hprod.nonneg
  have hmule : mu ≤ (2 ^ 16 : Nat) :=
    (hround.le_natCast (by omega) hle).trans (by exact_mod_cast (by omega))
  refine ⟨mu, ?_, ⟨hmu0, hmule⟩, (hround.bounds hprod.normal).2⟩
  rw [refMu_eq_refMean, refMean, (running_sums_zero hc hN (by omega) h.below).2]
  exact hmu.add_to_zero (range_of_le hmu0 hmule (by decide))

/-- The mean's distance from `f`, at least about 2^-32, is far above the rounding errors of the two
products. -/
theorem deviation_bound {f m p a mu : ℚ} (hf : f ≤ 255)
    (hm : (1 - 1 / 2 ^ 44) * (f + 1 / 2 ^ 32) ≤ m) (hp : 1 / 2 ^ 32 ≤ p)
    (ha : (1 - 1 / 2 ^ 53) * (m * p) ≤ a) (hmu : mu ≤ (1 + 1 / 2 ^ 53) * (f * p)) :
    1 / 2 ^ 66 ≤ a - mu := by
  have hgap : 1 / 2 ^ 34 ≤ (1 - 1 / 2 ^ 53) * m - (1 + 1 / 2 ^ 53) * f := by
    norm_num at hm ⊢
    linarith
  calc (1 : ℚ) / 2 ^ 66 = 1 / 2 ^ 34 * (1 / 2 ^ 32) := by norm_num
    _ ≤ ((1 - 1 / 2 ^ 53) * m - (1 + 1 / 2 ^ 53) * f) * p :=
      mul_le_mul hgap hp (by positivity) (le_trans (by positivity) hgap)
    _ = (1 - 1 / 2 ^ 53) * (m * p) - (1 + 1 / 2 ^ 53) * (f * p) := by ring
    _ ≤ a - mu := sub_le_sub ha hmu

/-- The deviation of the first bin is positive. -/
theorem FirstOfTwo.deviation (h : FirstOfTwo s f g) (hc : Conserved s) (hN : s.N ≠ 0) :
    ∃ b, HasValue (refDeviation s f) b ∧ |b| ≤ (2 ^ 16 : Nat) ∧ 1 / 2 ^ 66 ≤ b := by
  have hf : (f : ℚ) ≤ 255 := by exact_mod_cast Nat.le_of_lt_succ h.first_lt
  obtain ⟨p, hp, hw, hplo, hp1⟩ := h.sum_value hc hN
  obtain ⟨m, hm, hmle, hmlo⟩ := h.mean_ge hc hN
  obtain ⟨mu, hmu, hmurange, hmuhi⟩ := h.refMu_value hc hN hp hplo hp1
  have hmpos : 1 / 2 ^ 33 ≤ m := by
    have : (0 : ℚ) ≤ f := Nat.cast_nonneg f
    norm_num at hmlo ⊢
    linarith
  have hprodlo : (1 : ℚ) / 2 ^ 200 ≤ m * p :=
    calc (1 : ℚ) / 2 ^ 200 ≤ 1 / 2 ^ 33 * (1 / 2 ^ 32) := by norm_num
      _ ≤ m * p := mul_le_mul hmpos hplo (by positivity) (le_trans (by positivity) hmpos)
  obtain ⟨a, b, -, har, hb, hbr, hble⟩ := deviation_of_values hm hw hmu
    ⟨le_trans (by positivity) hmpos, hmle⟩ ⟨le_trans (by positivity) hplo, hp1.le⟩ hmurange
  have hdiff := deviation_bound hf hmlo hplo (har.bounds (.inr hprodlo)).1 hmuhi
  exact ⟨b, hb, hble, hbr.le_of_scale (by omega) hdiff⟩

/-- The first bin's variance is positive (41_otsu.md R132). -/
theorem FirstOfTwo.refVar_pos (h : FirstOfTwo s f g) (hc : Conserved s) (hN : s.N ≠ 0) :
    f64Lt f64Zero (refVar s f) = true := by
  obtain ⟨b, hb, hble, hblo⟩ := h.deviation hc hN
  obtain ⟨-, var, -, hvar, -, hpos⟩ :=
    candidate_variance hc hN h.first_lt (h.refCandidate hc hN) hb hble
  exact (hasValue_zero.lt_iff hvar).mpr (hpos hblo)

end

end Sys2Proof.Machine
end

section
namespace Sys2Proof.Machine

/-! ### The statements on degenerate solves and on THRESH (41_otsu.md R134, R135) -/

section
variable {s : State}

theorem bin_eq_zero_iff {v : Byte} : bin s v = 0 ↔ binCount s v.toNat = 0 := by
  rw [binCount_toNat]
  exact BitVec.toNat_inj.symm

/-- A histogram that is not empty has one bin that is not zero, or a first of several. -/
theorem onlyBin_or_firstOfTwo (hc : Conserved s) (hN : s.N ≠ 0) :
    (∃ c, binCount s c ≠ 0 ∧ OnlyBin s c) ∨ ∃ f g, FirstOfTwo s f g := by
  have hsum : ∑ i ∈ Finset.range 256, binCount s i ≠ 0 := by
    rw [sum_binCount, ← hc]
    exact (toNat_pos_of_ne_zero hN).ne'
  obtain ⟨j, hj, hne⟩ := Finset.exists_ne_zero_of_sum_ne_zero hsum
  have hex : ∃ j, binCount s j ≠ 0 := ⟨j, hne⟩
  have hfirst : Nat.find hex < 256 := (Nat.find_min' hex hne).trans_lt (Finset.mem_range.mp hj)
  by_cases hother : ∃ g, g < 256 ∧ g ≠ Nat.find hex ∧ binCount s g ≠ 0
  · obtain ⟨g, hg, hgf, hgne⟩ := hother
    exact .inr ⟨Nat.find hex, g, (Nat.find_min' hex hgne).lt_of_ne hgf.symm, hg, Nat.find_spec hex,
      hgne, fun i hi => not_not.mp (Nat.find_min hex hi)⟩
  · refine .inl ⟨Nat.find hex, Nat.find_spec hex, hfirst, fun g hg hgf => ?_⟩
    by_contra hgne
    exact hother ⟨g, hg, hgf, hgne⟩

theorem onlyBin_of_bins {c : Byte} (h : ∀ v, v ≠ c → bin s v = 0) : OnlyBin s c.toNat where
  inRange := c.isLt
  others j hj hne := by
    rw [← toNat_ofNat_of_lt hj] at hne ⊢
    exact bin_eq_zero_iff.mp (h _ fun heq => hne (congrArg BitVec.toNat heq))

theorem OnlyBin.bins {c : Nat} (h : OnlyBin s c) (v : Byte) (hv : v ≠ BitVec.ofNat 8 c) :
    bin s v = 0 := by
  refine bin_eq_zero_iff.mpr (h.others _ v.isLt fun heq => hv (BitVec.eq_of_toNat_eq ?_))
  rw [toNat_ofNat_of_lt h.inRange, heq]

theorem firstOfTwo_of_bins {f g : Byte} (hf : bin s f ≠ 0) (hg : bin s g ≠ 0) (hne : f ≠ g)
    (hbelow : ∀ v : Byte, v.toNat < f.toNat → bin s v = 0) : FirstOfTwo s f.toNat g.toNat where
  lt := by
    have hge : ¬ g.toNat < f.toNat := fun hlt => hg (hbelow g hlt)
    have hne' : f.toNat ≠ g.toNat := fun heq => hne (BitVec.eq_of_toNat_eq heq)
    omega
  inRange := g.isLt
  first_ne := bin_eq_zero_iff.not.mp hf
  other_ne := bin_eq_zero_iff.not.mp hg
  below j hj := by
    have hj' := toNat_ofNat_of_lt (hj.trans f.isLt)
    rw [← hj'] at hj ⊢
    exact bin_eq_zero_iff.mp (hbelow _ hj)

/-- A solve finds no candidate exactly when one bin alone is not zero (41_otsu.md R134). -/
theorem refFound_eq_false_iff (hc : Conserved s) (hN : s.N ≠ 0) :
    refFound s 256 = false ↔ ∃ c, binCount s c ≠ 0 ∧ OnlyBin s c := by
  rw [← Bool.not_eq_true, refFound_iff]
  constructor
  · intro hnone
    refine (onlyBin_or_firstOfTwo hc hN).resolve_right ?_
    rintro ⟨f, g, h⟩
    exact hnone ⟨f, h.first_lt, h.refCandidate hc hN⟩
  · rintro ⟨c, -, h⟩ ⟨j, hj, hcand⟩
    rw [h.refCandidate_eq_false hc hN hj] at hcand
    cases hcand

/-- No index below the first bin that is not zero is a candidate. -/
theorem le_of_refCandidate (hc : Conserved s) (hN : s.N ≠ 0) {f i : Nat} (hi : i < 256)
    (hbelow : ∀ j, j < f → binCount s j = 0) (hcand : refCandidate s i = true) : f ≤ i := by
  by_contra hlt
  have hzero := (running_sums_zero hc hN (n := i + 1) (by omega) fun j hj => hbelow j (by omega)).1
  rw [refCandidate, hzero, f64Lt_irrefl, Bool.false_and] at hcand
  cases hcand

/-- With two bins not zero, the argmax is the first maximum over the candidates. -/
theorem FirstOfTwo.firstMaximum {f g : Nat} (h : FirstOfTwo s f g) (hc : Conserved s)
    (hN : s.N ≠ 0) : FirstMaximum s (refArgmax s 256).1 (refArgmax s 256).2 := by
  refine (refArgmax_cases s le_rfl).resolve_left fun h0 => ?_
  have hmax := refArgmax_maximal s h.first_lt (h.refCandidate hc hN)
  rw [h0, h.refVar_pos hc hN] at hmax
  cases hmax

end

/-- Settles O32: the classes of `onlyBin_or_firstOfTwo`, without and with a candidate. -/
theorem degenerateExactlyForOneBin : Obligations.DegenerateExactlyForOneBin := by
  intro s hc hN
  obtain ⟨-, -, hS⟩ := after_solve hN
  refine ⟨⟨_, exec_eq .solve s, ?_⟩, fun c hne hothers => ?_, fun f g hf hg hne hbelow => ?_⟩
  · rw [hS, currentResult_DEGEN, Bool.not_eq_true', refFound_eq_false_iff hc hN]
    constructor
    · rintro ⟨c, hne, h⟩
      exact ⟨BitVec.ofNat 8 c, fun h0 => hne (congrArg BitVec.toNat h0), h.bins⟩
    · rintro ⟨c, hne, hothers⟩
      exact ⟨c.toNat, bin_eq_zero_iff.not.mp hne, onlyBin_of_bins hothers⟩
  · have h := onlyBin_of_bins hothers
    exact ⟨h.refP_eq_one hc hN, fun i hi => h.refW_eq hc hN (Nat.succ_le_of_lt hi)⟩
  · exact (firstOfTwo_of_bins hf hg hne hbelow).refCandidate hc hN

/-- Settles O34: a solve that is not degenerate has a first of several bins, and its argmax is a first
maximum. -/
theorem thresholdIsCandidate : Obligations.ThresholdIsCandidate := by
  intro s hc hN
  obtain ⟨hT, hV, hS⟩ := after_solve hN
  refine ⟨_, exec_eq .solve s, ?_, fun hdegen => ?_⟩
  · have := (after .solve s).THRESH.isLt
    rw [threshWord, BitVec.toNat_setWidth_of_le (by decide)]
    omega
  have hfound : refFound s 256 = true := by
    rwa [hS, currentResult_DEGEN, Bool.not_eq_false'] at hdegen
  have hnot : ¬ ∃ c, binCount s c ≠ 0 ∧ OnlyBin s c := by
    rw [← refFound_eq_false_iff hc hN, hfound]
    decide
  obtain ⟨f, g, h⟩ := (onlyBin_or_firstOfTwo hc hN).resolve_left hnot
  have hf := h.first_lt
  have hmax := h.firstMaximum hc hN
  rw [hT, hV, if_pos hfound, if_pos hfound]
  refine ⟨hmax.candidate, ⟨BitVec.ofNat 8 f, ?_, fun v hv => ?_, ?_⟩, hmax.attained, hmax.positive⟩
  · exact fun h0 => h.first_ne (congrArg BitVec.toNat h0)
  · rw [toNat_ofNat_of_lt hf] at hv
    exact bin_eq_zero_iff.mpr (h.below _ hv)
  · rw [toNat_ofNat_of_lt hf]
    exact le_of_refCandidate hc hN (BitVec.isLt _) h.below hmax.candidate

end Sys2Proof.Machine
end

section
namespace Sys2Proof

/-! ### Where ACC.BAD stands among the transaction words (42_control.md R156) -/

theorem alignment_bits_eq_zero_iff {off : Offset} : off.extractLsb' 0 2 = 0 ↔ off.toNat % 4 = 0 := by
  have hmod : (off.extractLsb' 0 2).toNat = off.toNat % 4 := by simp
  rw [← hmod, BitVec.toNat_eq]
  rfl

/-- `badPlace` with alignment read from OFF[1:0], as 42_control.md R156 lists it. -/
theorem badPlace_iff_bits {sz : BitVec 2} {off : Offset} : badPlace sz off ↔
    sz ≠ 2 ∨ off.extractLsb' 0 2 ≠ 0 ∨ (0x020 ≤ off.toNat ∧ off.toNat ≤ 0x3FF) := by
  rw [badPlace, ne_eq (off.extractLsb' 0 2), alignment_bits_eq_zero_iff]

/-- A write is ACC.BAD exactly at a bad place or a read-only register: the ACC.BAD it decodes to is
well formed, and encodes to that write again. -/
theorem decode_write_accBad_iff {sz : BitVec 2} {off : Offset} {d : Word} :
    (∃ a, decode (mkT true sz off d) = .accBad a) ↔ badPlace sz off ∨ readOnly off = true := by
  refine ⟨fun ⟨a, ha⟩ => ?_, fun h => ⟨_, decode_encode_badWrite (unsupported_write_iff.mpr h)⟩⟩
  have hwf := wellFormed_decode_write sz off d
  have hword := encode_decode_write sz off d
  rw [ha] at hwf hword
  cases a with
  | read => cases (mkT_inj.mp hword).1
  | write =>
    obtain ⟨-, rfl, rfl, -⟩ := mkT_inj.mp hword
    exact unsupported_write_iff (d := d).mp hwf

/-- A read is ACC.BAD exactly at a bad place or a write-only port. -/
theorem decode_read_accBad_iff {sz : BitVec 2} {off : Offset} {d : Word} :
    (∃ a, decode (mkT false sz off d) = .accBad a) ↔ badPlace sz off ∨ writeOnly off = true := by
  refine ⟨fun ⟨a, ha⟩ => ?_, fun h => ⟨_, decode_badRead (unsupported_read_iff.mpr h) d⟩⟩
  have hwf := wellFormed_decode_read sz off d
  have hword := encode_decode_read sz off d
  rw [ha] at hwf hword
  cases a with
  | write => cases (mkT_inj.mp hword).1
  | read =>
    obtain ⟨-, rfl, rfl, -⟩ := mkT_inj.mp hword
    exact unsupported_read_iff.mp hwf

theorem readOnly_iff {off : Offset} : readOnly off = true ↔
    off = 0x010 ∨ off = 0x014 ∨ off = 0x018 ∨ off = 0x01C ∨ 0x400 ≤ off.toNat := by
  simp only [readOnly, Bool.or_eq_true, decide_eq_true_eq, or_assoc, BitVec.ofNat_eq_ofNat]

theorem writeOnly_iff {off : Offset} : writeOnly off = true ↔
    off = 0x000 ∨ off = 0x008 ∨ off = 0x00C := by
  simp only [writeOnly, Bool.or_eq_true, decide_eq_true_eq, or_assoc, BitVec.ofNat_eq_ofNat]

end Sys2Proof

namespace Sys2Proof.Machine

/-! ### The status word by its bits (42_control.md R153) -/

theorem statusWord_getLsbD_VALID (st : Status) : (statusWord st).getLsbD 0 = st.VALID := by
  simp only [statusWord, BitVec.getLsbD_append]
  simp

theorem statusWord_getLsbD_DEGEN (st : Status) : (statusWord st).getLsbD 1 = st.DEGEN := by
  simp only [statusWord, BitVec.getLsbD_append]
  simp

/-- Each sticky bit stands in the status word where WR.STATUS's mask has it. -/
theorem statusWord_getLsbD_statusBit (st : Status) (e : ErrorClass) :
    (statusWord st).getLsbD (statusBit e) = stickyBit e st := by
  simp only [statusWord, BitVec.getLsbD_append]
  cases e <;> simp [statusBit, stickyBit]

theorem statusWord_CAUSE (st : Status) : (statusWord st).extractLsb' 8 4 = st.CAUSE := by
  apply BitVec.eq_of_getLsbD_eq
  intro i hi
  simp only [BitVec.getLsbD_extractLsb', statusWord, BitVec.getLsbD_append]
  simp (disch := omega) only [if_neg, if_pos]
  simp [hi]

/-! ### CAUSE after an acknowledgement (42_control.md R154) -/

/-- CAUSE is 0 after an acknowledgement that leaves no error. -/
theorem clearSticky_CAUSE_of_none {m : Word} {st : Status}
    (h : ∀ e, stickyBit e (clearSticky m st) = false) : (clearSticky m st).CAUSE = 0 := by
  rw [clearSticky_CAUSE, (anySticky_eq_false_iff _).mpr h]
  rfl

/-- CAUSE stays at an acknowledgement that leaves an error. -/
theorem clearSticky_CAUSE_of_left {m : Word} {st : Status} {e : ErrorClass}
    (h : stickyBit e (clearSticky m st) = true) : (clearSticky m st).CAUSE = st.CAUSE := by
  have hleft : anySticky (clearSticky m st) = true := by
    by_contra hnone
    rw [(anySticky_eq_false_iff _).mp (Bool.eq_false_of_not_eq_true hnone)] at h
    cases h
  rw [clearSticky_CAUSE, if_pos hleft]

/-! ### The statements of 42_control.md -/

/-- Settles O43: the write column and the read column of ACC.BAD, and an effect that looks at no
operand. -/
theorem unsupportedAccessIsRefused : Obligations.UnsupportedAccessIsRefused := by
  refine ⟨fun t => ?_, fun a => exec_eq (.accBad a)⟩
  conv_lhs => rw [← mkT_fields t]
  cases isWrite t with
  | true =>
    rw [decode_write_accBad_iff, badPlace_iff_bits, readOnly_iff]
    simp only [Bool.true_eq_false, false_and, false_or, true_and, or_assoc]
  | false =>
    rw [decode_read_accBad_iff, badPlace_iff_bits, writeOnly_iff]
    simp only [Bool.false_eq_true, false_and, or_false, true_and, or_assoc]

/-- Settles O39: NOP has no effect. -/
theorem nopChangesNothing : Obligations.NopChangesNothing :=
  ⟨decode_encode .nop rfl, exec_eq .nop⟩

/-- Settles O40: the words left over by the command words decode to CMD.BAD, whose effect looks at no
operand. -/
theorem reservedCommandIsRefused : Obligations.ReservedCommandIsRefused := by
  refine ⟨fun d h0 h1 h2 => ?_, fun rsv op => exec_eq (.cmdBad rsv op)⟩
  rw [decode_command, if_neg h0, if_neg h1, if_neg h2]

/-- Settles O41: the response is the status word, read bit by bit. -/
theorem statusRead : Obligations.StatusRead := by
  refine ⟨decode_encode .rdStatus rfl, fun s => ⟨statusWord s.STATUS, exec_eq .rdStatus s, ?_⟩⟩
  have hsticky := statusWord_getLsbD_statusBit s.STATUS
  obtain ⟨hbit7, hhigh⟩ := statusWord_reserved s.STATUS
  exact ⟨statusWord_getLsbD_VALID _, statusWord_getLsbD_DEGEN _, hsticky .empty, hsticky .ovf,
    hsticky .range, hsticky .cmd, hsticky .acc, hbit7, statusWord_CAUSE _, hhigh⟩

/-- Settles O42: the effect is `acknowledge`, and an access that is not an aligned 32-bit one is at a
bad place. -/
theorem acknowledgeClearsErrors : Obligations.AcknowledgeClearsErrors := by
  refine ⟨fun m => decode_encode (.wrStatus m) rfl, fun sz off m h => ?_, fun m s => ?_⟩
  · have hbad : badPlace sz off := badPlace_iff_bits.mpr (h.imp_right .inl)
    exact decode_encode_badWrite (unsupported_write_iff.mpr (.inl hbad))
  · exact ⟨after (.wrStatus m) s, exec_eq .., fun e => stickyBit_clearSticky e m s.STATUS,
      clearSticky_CAUSE_of_none, fun ⟨_, he⟩ => clearSticky_CAUSE_of_left he,
      rfl, rfl, rfl, rfl, rfl, rfl, rfl, rfl, rfl⟩

end Sys2Proof.Machine
end

section
namespace Sys2Proof.Machine

/-! ### What an error changes (60_exceptions.md R172, R173) -/

/-- The cause code of an error class is its bit's place among the sticky bits, counted from 1. -/
theorem errorCode_eq_statusBit (e : ErrorClass) :
    errorCode e = BitVec.ofNat 4 (statusBit e - 1) := by
  cases e <;> rfl

section
variable {i : Instr} {s u : State} {e : ErrorClass}

/-- The whole effect of an operation that raises an error is to take it. SOLVE has made the result stale
before. -/
theorem EffectOf.eq_raiseError_of_raised (h : EffectOf i s u) (he : raised i s = some e) :
    u = raiseError e (if i = .solve then invalidate s else s) := by
  cases h with
  | error e' hraised hsolve =>
    obtain rfl : e' = e := Option.some.inj (hraised.symm.trans he)
    rw [if_neg hsolve]
  | empty hi hraised =>
    obtain rfl : .empty = e := Option.some.inj (hraised.symm.trans he)
    rw [if_pos hi]
  | quiet _ hraised | solve _ hraised | tally _ hraised => cases hraised.symm.trans he
  | clear hi | acknowledged _ hi => subst hi; cases he

/-- A raised error is recorded in STATUS, and changes VALID and DEGEN in SOLVE only. -/
theorem EffectOf.STATUS_of_raised (h : EffectOf i s u) (he : raised i s = some e) :
    u.STATUS = recordError e (if i = .solve then staleResult s.STATUS else s.STATUS) := by
  rw [h.eq_raiseError_of_raised he, raiseError_STATUS, apply_ite State.STATUS, invalidate_STATUS]

/-- A raised error leaves the histogram and the result registers. -/
theorem EffectOf.registers_of_raised (h : EffectOf i s u) (he : raised i s = some e) :
    u.H = s.H ∧ u.N = s.N ∧ u.THRESH = s.THRESH ∧ u.VARMAX = s.VARMAX := by
  rw [h.eq_raiseError_of_raised he]
  split <;> exact ⟨rfl, rfl, rfl, rfl⟩

/-- An operation that raises an error responds 0. -/
theorem rdata_of_raised (he : raised i s = some e) : rdata i s = 0 := by
  cases i with
  | rdStatus | rdCount | rdThresh | rdVarlo | rdVarhi | rdBin => cases he
  | nop | clear | solve | cmdBad | wrStatus | tally1 | tally1Bad | tally4 | accBad => rfl

/-- An operation that raises no error keeps the record of errors, WR.STATUS apart. -/
theorem EffectOf.errors_kept (h : EffectOf i s u) (he : raised i s = none)
    (hack : ∀ m, i ≠ .wrStatus m) :
    (∀ e, stickyBit e u.STATUS = stickyBit e s.STATUS) ∧ u.STATUS.CAUSE = s.STATUS.CAUSE := by
  cases h with
  | error _ hraised | empty _ hraised => cases hraised.symm.trans he
  | acknowledged m hi => exact absurd hi (hack m)
  | quiet | solve | clear | tally => simp

end

/-! ### The statement of 60_exceptions.md -/

/-- Settles O44: an operation that raises an error only takes it, and the kinds of effect that raise
none keep the record. -/
theorem errorsArePrecise : Obligations.ErrorsArePrecise := by
  refine ⟨fun i s e he => ⟨after i s, exec_eq i s, ?_⟩,
    fun i s he hack => ⟨after i s, exec_eq i s, (effectOf_effect i s).errors_kept he hack⟩⟩
  have heff := effectOf_effect i s
  have hstatus : (after i s).STATUS = _ := heff.STATUS_of_raised he
  obtain ⟨hH, hN, hT, hV⟩ := heff.registers_of_raised he
  refine ⟨heff.sticky_of_raised he, fun e' hne => ?_, ?_, ?_, ?_, hH, hN, hT, hV,
    congrArg some (rdata_of_raised he), after_txIndex i s, after_pending i s⟩ <;> rw [hstatus]
  · rw [stickyBit_recordError, beq_false_of_ne hne.symm, Bool.or_false, apply_ite (stickyBit e'),
      stickyBit_staleResult, ite_self]
  · rw [recordError_CAUSE, apply_ite Status.CAUSE, staleResult_CAUSE, ite_self,
      errorCode_eq_statusBit, BitVec.ofNat_eq_ofNat]
  · rw [recordError_VALID, apply_ite Status.VALID, staleResult_VALID]
  · rw [recordError_DEGEN, apply_ite Status.DEGEN, staleResult_DEGEN]

end Sys2Proof.Machine
end

section
namespace Sys2Proof.Machine

/-! ### Reset and the answering of requests (70_reset_and_hazards.md) -/

/-- Settles O15: the reset step is `resetEvent`, which keeps only the index and the pending events, and
the step without an event is `idle`, which ends only the response. -/
theorem resetIsTheOnlyOtherEvent : Obligations.ResetIsTheOnlyOtherEvent := by
  refine fun s => ⟨fun es h => ?_, fun h => ⟨idle s, step_idle h, rfl, rfl, rfl, rfl, rfl⟩⟩
  obtain ⟨hbin, hN, hT, hV, hstatus, -⟩ := resetValues
  exact ⟨resetEvent (withPending es s), step_reset h, hbin, hN, hT, hV, hstatus,
    resetEvent_registers _, rfl, rfl⟩

/-- Reset overwrites every register: a request outstanding at the reset, or done before it, leaves no
trace (70_reset_and_hazards.md R192). -/
theorem resetEvent_sameRegisters_resetOutstanding (a b : State) :
    sameRegisters (resetEvent a) (resetOutstanding b) := by
  simp [sameRegisters]

/-- Settles O16: the interrupted request steps to `resetOutstanding`. Performed first, it leads to `after`,
with the reset still pending, and that reset gives the same registers. -/
theorem resetDiscardsOutstandingTransaction : Obligations.ResetDiscardsOutstandingTransaction := by
  intro s t es h
  exact ⟨resetOutstanding (withPending es s), step_resetDuring h, resetOutstanding_registers _, rfl,
    rfl, after (decode t) { s with pending := .reset :: es }, _, exec_eq ..,
    step_reset (after_pending ..), resetEvent_sameRegisters_resetOutstanding ..⟩

/-- Settles O18: every instruction answers `after`, which holds a response, and since every step answers
(`step_cases`), every run does. -/
theorem everyRequestIsAnswered : Obligations.EveryRequestIsAnswered := by
  refine ⟨fun s t => ⟨after (decode t) s, rdata (decode t) s, exec_eq .., after_response ..⟩,
    fun n s => ?_⟩
  obtain ⟨t, hrun, -⟩ := run_keeps (P := fun _ => True) (fun _ _ _ _ => trivial) n (s := s) trivial
  exact ⟨t, hrun⟩

end Sys2Proof.Machine
end
